-- ==== Sys2Proof/Word.lean ====
section
/-! DEFINITION. The named parameters of 00_scope.md rule R6, and the widths of the core's values as names for bit vectors.
Every value is unsigned, bit 0 least significant (rule R9). A width below is read from the parameters; `delta%` and
`reduceProj%` write it as its numeral, so that a value of the type computes. -/

namespace Sys2Proof

/-- The parameters that rule R6 names (92_eei_decisions.md D2 to D7, D35, D36; 93_implementation_defined.md U8, U9), but for
`LAT`, which has no value there and is the field `latency` of `Config`. -/
structure Parameters where
  /-- `RAW_W`, the width of a raw reading (D2) -/
  rawW : Nat
  /-- `RANGE`, the `range` of `step = floor(range / numValues)` (D2) -/
  range : Nat
  /-- `RANGE_MAX`, the largest raw reading (D2) -/
  rangeMax : Nat
  /-- `TIME_W`, the width of a timestamp, a period and every time difference (D3, U9) -/
  timeW : Nat
  /-- `PHASE_W`, the width of a phase (D4) -/
  phaseW : Nat
  /-- `PHASE_MAX`, one more than the largest phase (D4) -/
  phaseMax : Nat
  /-- `OUT_W`, the width of the output value (D5) -/
  outW : Nat
  /-- `OUT_MAX`, the output's maximum value (D5, U8) -/
  outMax : Nat
  /-- `OUT_LOW`, the output's low value (D5) -/
  outLow : Nat
  /-- `NV_MAX`, the largest legal `numValues` (D6) -/
  nvMax : Nat
  /-- `IDX_W`, the width of `currentIndex` (D6) -/
  idxW : Nat
  /-- `HYST_W`, the width of `hysteresis` (D6) -/
  hystW : Nat
  /-- `VAL_W`, the width of a curve breakpoint (D7) -/
  valW : Nat
  /-- `RATIO_W`, the width of a numerator or denominator (D35) -/
  ratioW : Nat
  /-- `GATE_W`, the width of the gate counter and of a repeat count (D36) -/
  gateW : Nat
deriving DecidableEq, Repr

/-- The value rule R6 gives each parameter for the hardware. The model's results are for these values (DESIGN CHOICE,
log 19). -/
def Parameters.hardware : Parameters where
  rawW := 10
  range := 1024
  rangeMax := 1023
  timeW := 32
  phaseW := 16
  phaseMax := 65536
  outW := 8
  outMax := 255
  outLow := 0
  nvMax := 16
  idxW := 4
  hystW := 10
  valW := 32
  ratioW := 8
  gateW := 8

/-- A raw reading, `RAW_W` bits (rule R6). -/
abbrev Raw := BitVec (reduceProj% (delta% Parameters.hardware).rawW)

/-- A hysteresis margin, `HYST_W` bits (rule R6). -/
abbrev Margin := BitVec (reduceProj% (delta% Parameters.hardware).hystW)

/-- A timestamp, a period or a time difference, `TIME_W` bits (rule R6). -/
abbrev Time := BitVec (reduceProj% (delta% Parameters.hardware).timeW)

/-- A curve breakpoint, `VAL_W` bits (rule R6). -/
abbrev Breakpoint := BitVec (reduceProj% (delta% Parameters.hardware).valW)

/-- A phase, `PHASE_W` bits (rule R6). -/
abbrev Phase := BitVec (reduceProj% (delta% Parameters.hardware).phaseW)

/-- A duty threshold or a sync target: 17 bits, so that `PHASE_MAX` itself is representable (rule R25). -/
abbrev Duty := BitVec 17

/-- A bucket index, `IDX_W` bits (rule R6). -/
abbrev Index := BitVec (reduceProj% (delta% Parameters.hardware).idxW)

/-- The 5 bits of a number of buckets (rule R21); the legal ones are `BucketCount`. -/
abbrev Buckets := BitVec 5

/-- An output level, `OUT_W` bits (rule R6). -/
abbrev Level := BitVec (reduceProj% (delta% Parameters.hardware).outW)

/-- A gate count or a repeat count, `GATE_W` bits (rule R6). -/
abbrev GateCount := BitVec (reduceProj% (delta% Parameters.hardware).gateW)

/-- A term of a ratio, `RATIO_W` bits (rule R6). -/
abbrev RatioTerm := BitVec (reduceProj% (delta% Parameters.hardware).ratioW)

/-- The frame word `F[62:0]` of rule R82. -/
abbrev FrameWord := BitVec 63

/-- One command word: the model's own layout of an operation with its operands (DESIGN CHOICE, log 6). -/
abbrev CmdWord := BitVec 80

end Sys2Proof
end

