-- ==== Sys2Proof/Config.lean ====
section
/-! DEFINITION. What is fixed for one core: the parameters of 00_scope.md rules R5 to R8, the constant tables of
20_memory.md rules R61 to R65 with their reference contents, and the free values that stand where the spec
gives none. -/

namespace Sys2Proof

/-- `RANGE`, the `range` of `step = floor(range / numValues)` (rules R5, R6). -/
abbrev rawRange : Nat := reduceProj% (delta% Parameters.hardware).range

/-- `RANGE_MAX`, the largest raw reading (rule R6). -/
abbrev rawMax : Nat := reduceProj% (delta% Parameters.hardware).rangeMax

/-- `PHASE_MAX` = 2^16 (rule R6). -/
abbrev phaseMax : Nat := reduceProj% (delta% Parameters.hardware).phaseMax

/-- `DUTY_DEFAULT` = `PHASE_MAX / 2` (rule R5). -/
abbrev dutyDefault : Duty := 32768#17

/-- `OUT_MAX` (rule R6, 93_implementation_defined.md U8). -/
abbrev outMax : Level := BitVec.ofNat _ (reduceProj% (delta% Parameters.hardware).outMax)

/-- `OUT_LOW` (rule R6). -/
abbrev outLow : Level := BitVec.ofNat _ (reduceProj% (delta% Parameters.hardware).outLow)

/-- `NV_MAX`, the largest legal `numValues` (rule R6). -/
abbrev numValuesMax : Nat := reduceProj% (delta% Parameters.hardware).nvMax

/-- 1 ≤ `numValues` ≤ `NV_MAX` (rule R8). -/
def bucketsLegal (n : Buckets) : Bool := decide (1 ≤ n.toNat) && decide (n.toNat ≤ numValuesMax)

/-! ### Legal values

Rule R8: "a model takes legality as a premise of its configuration type and gives no meaning to an illegal one". Each type
below carries its legality, so that a state holds no illegal configuration. -/

/-- A legal number of buckets, curves or tables, 1..16 (rules R8, R21). -/
structure BucketCount where
  bits  : Buckets
  legal : bucketsLegal bits = true := by decide
deriving DecidableEq, Repr

/-- The number itself. -/
def BucketCount.toNat (n : BucketCount) : Nat := n.bits.toNat

/-- A legal repeat count, 1..255 (rule R8). -/
structure RepeatCount where
  bits     : GateCount
  positive : bits ≠ 0#_ := by decide
deriving DecidableEq, Repr

/-- The number itself. -/
def RepeatCount.toNat (n : RepeatCount) : Nat := n.bits.toNat

/-- One entry `{num, den}` of a ratio table, each term `RATIO_W` bits, legal 1..255 (rules R8, R65). -/
structure Ratio where
  num         : RatioTerm
  den         : RatioTerm
  numPositive : num ≠ 0#_ := by decide
  denPositive : den ≠ 0#_ := by decide
deriving DecidableEq, Repr

/-- `MODE_NV`, the positions of the mode-select knob (rule R5). -/
def modeBuckets : BucketCount := { bits := 4#5 }

/-- `DM_RATE_NV`, the positions of the divide/multiply rate knob (rule R5). -/
def dmRateBuckets : BucketCount := { bits := 8#5 }

/-- `BST_RATE_NV`, the buckets of the burst rate CurveKnob (rule R5, 90_conflicts.md C1). -/
def bstRateBuckets : BucketCount := { bits := 1#5 }

/-- The constant tables of rules R62 to R65, `CLK_CURVE`, `BST_CURVE`, `BST_REPEAT`, `DIV_RATIO`, `MUL_RATIO`. -/
structure Tables where
  clkCurve  : List (List Breakpoint)
  bstCurve  : List Breakpoint
  bstRepeat : List RepeatCount
  divRatio  : List (List Ratio)
  mulRatio  : List (List Ratio)
deriving DecidableEq, Repr

/-- The sizes of rule R8: every curve of `numValues + 1` breakpoints (rule R121), every other table as large as the knob that
indexes it (rule R66). -/
def Tables.sizedFor (tb : Tables) (clkRateNv clkNCurves bstNRep dmNTables : BucketCount) : Bool :=
  tb.clkCurve.length == clkNCurves.toNat && tb.clkCurve.all (·.length == clkRateNv.toNat + 1) &&
  tb.bstCurve.length == bstRateBuckets.toNat + 1 && tb.bstRepeat.length == bstNRep.toNat &&
  tb.divRatio.length == dmNTables.toNat && tb.divRatio.all (·.length == dmRateBuckets.toNat) &&
  tb.mulRatio.length == dmNTables.toNat && tb.mulRatio.all (·.length == dmRateBuckets.toNat)

/-- The configuration of a core: the named parameters of rule R6, at the values it gives for the hardware (log 19), with the
latency `LAT`, open and at least 1, of which no operation has a notion (rules R6, R237); and the open parameters of rule R7
(92_eei_decisions.md D34), the knob sizes and hysteresis margins that the source leaves open, and the tables. The sizes that rule R5 fixes are no fields. Every configuration is legal by its type (rule R8,
93_implementation_defined.md U3); a margin is at most 1023 by its width. They are parameters of the step (rule R34) that no
operation writes (rule R61); the model's state carries them as plain data so that every statement holds for every
configuration (DESIGN CHOICE, log 1). -/
structure Config where
  params     : Parameters := Parameters.hardware
  given      : params = Parameters.hardware := by decide
  latency    : Nat
  latencyPos : 1 ≤ latency := by decide
  clkRateNv  : BucketCount
  clkNCurves : BucketCount
  bstNRep    : BucketCount
  dmNTables  : BucketCount
  hMode      : Margin
  hClkRate   : Margin
  hClkRange  : Margin
  hBstRate   : Margin
  hBstRepeat : Margin
  hDmRate    : Margin
  hDmRange   : Margin
  tables     : Tables
  sized      : tables.sizedFor clkRateNv clkNCurves bstNRep dmNTables = true := by decide
deriving DecidableEq, Repr

/-- The constants that the operations use are the parameters of every configuration (rule R6). -/
theorem Config.constants_eq (c : Config) :
    c.params.range = rawRange ∧ c.params.rangeMax = rawMax ∧ c.params.phaseMax = phaseMax ∧
    c.params.outMax = outMax.toNat ∧ c.params.outLow = outLow.toNat ∧ c.params.nvMax = numValuesMax := by
  rw [c.given]; decide

/-- The widths of the values are the parameters of every configuration (rule R6). -/
theorem Config.widths_eq (c : Config) :
    Raw = BitVec c.params.rawW ∧ Time = BitVec c.params.timeW ∧ Phase = BitVec c.params.phaseW ∧
    Level = BitVec c.params.outW ∧ Index = BitVec c.params.idxW ∧ Margin = BitVec c.params.hystW ∧
    Breakpoint = BitVec c.params.valW ∧ RatioTerm = BitVec c.params.ratioW ∧ GateCount = BitVec c.params.gateW := by
  rw [c.given]; exact ⟨rfl, rfl, rfl, rfl, rfl, rfl, rfl, rfl, rfl⟩

/-- The width of the selector of one of `n` curves: `ceil(log2(n))`, at least 1 bit (rule R24). -/
def selectorWidth (n : BucketCount) : Nat :=
  if n.toNat ≤ 2 then 1 else if n.toNat ≤ 4 then 2 else if n.toNat ≤ 8 then 3 else 4

theorem BucketCount.bounds (n : BucketCount) : 1 ≤ n.toNat ∧ n.toNat ≤ 16 := by
  have h := n.legal
  simp only [bucketsLegal, Bool.and_eq_true, decide_eq_true_eq] at h
  exact h

/-- A selector of that width can name each of the `n` curves. -/
theorem le_two_pow_selectorWidth (n : BucketCount) : n.toNat ≤ 2 ^ selectorWidth n := by
  have h := n.bounds.2
  simp only [selectorWidth]
  split
  · omega
  · split
    · omega
    · split <;> omega

/-- The reference ratio tables of rule R65: row 0 is 1/1 .. 1/8, row 1 is 1/1, 1/2, 1/4, .. 1/128. -/
def referenceRatios : List (List Ratio) :=
  [[{ num := 1, den := 1 }, { num := 1, den := 2 }, { num := 1, den := 3 }, { num := 1, den := 4 },
    { num := 1, den := 5 }, { num := 1, den := 6 }, { num := 1, den := 7 }, { num := 1, den := 8 }],
   [{ num := 1, den := 1 }, { num := 1, den := 2 }, { num := 1, den := 4 }, { num := 1, den := 8 },
    { num := 1, den := 16 }, { num := 1, den := 32 }, { num := 1, den := 64 }, { num := 1, den := 128 }]]

/-- The reference contents of rules R62 to R65. -/
def Tables.reference : Tables where
  clkCurve :=
    [[8000000#_, 4000000#_, 2000000#_, 1000000#_, 500000#_],
     [500000#_, 250000#_, 125000#_, 62500#_, 31250#_],
     [31250#_, 15625#_, 8000#_, 4000#_, 2000#_]]
  bstCurve := [500000#_, 10000#_]
  bstRepeat := [{ bits := 1 }, { bits := 2 }, { bits := 3 }, { bits := 4 }, { bits := 5 }, { bits := 6 }, { bits := 7 },
    { bits := 8 }]
  divRatio := referenceRatios
  mulRatio := referenceRatios

/-- The reference configuration of rule R7. `LAT` has no reference value: 1, the least (DESIGN CHOICE, log 1). -/
def Config.reference : Config where
  latency := 1
  clkRateNv := { bits := 4#5 }
  clkNCurves := { bits := 3#5 }
  bstNRep := { bits := 8#5 }
  dmNTables := { bits := 2#5 }
  hMode := 5#_
  hClkRate := 5#_
  hClkRange := 5#_
  hBstRate := 0#_
  hBstRepeat := 5#_
  hDmRate := 5#_
  hDmRange := 5#_
  tables := Tables.reference

/-! ### Free values

Each is an opaque constant: nothing can evaluate it. They answer a table read outside the table, a mode index above 3
and a curve selector outside its range, which the composed core never meets (rules R66, R88, R123) but a QK.CONFIG or a
CK.SETCURVE by itself can bring about (log 8, log 9, log 14). A
table read is a pure function of the configuration and its indices (rule R61), so each is a function of these. -/

/-- What `CLK_CURVE[c][j]` reads as outside the table (DESIGN CHOICE, log 8). -/
opaque Config.freeClkBreakpoint (tb : Tables) (c j : Nat) : Breakpoint

/-- What `BST_CURVE[j]` reads as outside the table (DESIGN CHOICE, log 8). -/
opaque Config.freeBstBreakpoint (tb : Tables) (j : Nat) : Breakpoint

/-- What `BST_REPEAT[r]` reads as outside the table, less one: the bound 1..255 of rule R8 is kept (DESIGN CHOICE,
log 8). -/
opaque Config.freeRepeat (tb : Tables) (r : Nat) : Fin 255

/-- The terms, each less one, that `DIV_RATIO[t][r]` reads as outside the table (DESIGN CHOICE, log 8). -/
opaque Config.freeDivRatio (tb : Tables) (t r : Nat) : Fin 255 × Fin 255

/-- The terms, each less one, that `MUL_RATIO[t][r]` reads as outside the table (DESIGN CHOICE, log 8). -/
opaque Config.freeMulRatio (tb : Tables) (t r : Nat) : Fin 255 × Fin 255

/-- The selector, modulo the number of curves `n`, after a CK.SETCURVE with an operand of `n` or more: the range 0..n-1 of rule
R24 is kept (DESIGN CHOICE, log 14). -/
opaque Config.freeCurveSel (n : BucketCount) (sel : Index) : Nat

/-- Which of the four behaviours runs for a mode index above 3 (DESIGN CHOICE, log 9). -/
opaque Config.freeMode (m : Index) : Fin 4

end Sys2Proof
end

