-- ==== Sys2Proof/Syntax.lean ====
section
/-! DEFINITION. The operations of the core, one constructor of `Instr` for each row of spec/opcode_table.json
(30_encoding.md rule R87), with the names of the units they act on (00_scope.md rule R7, 10_state.md rule R20). -/

namespace Sys2Proof

/-- The nine QuantizedKnobs of rule R7: seven plain ones and the two inside the CurveKnobs. -/
inductive KnobId where
  | msMode | clkRate | clkRange | bstRate | bstRepeat | divRate | divRange | mulRate | mulRange
deriving DecidableEq, Repr

/-- The two CurveKnobs of rule R7, `CLK.kRate` and `BST.kRate`. -/
inductive CurveId where
  | clkRate | bstRate
deriving DecidableEq, Repr

/-- The QuantizedKnob `C.k` inside a CurveKnob (rule R24). -/
def CurveId.knob : CurveId → KnobId
  | .clkRate => .clkRate
  | .bstRate => .bstRate

/-- The four PhaseClocks of rule R7, `CLK.clk`, `BST.clk`, `DIV.clk`, `MUL.clk`. -/
inductive ClockId where
  | clk | bst | div | mul
deriving DecidableEq, Repr

/-- The four behaviours a frame can be dispatched to (rules R86, R192). -/
inductive ModeId where
  | clock | burst | divide | multiply
deriving DecidableEq, Repr

/-- The fields of one input frame (rule R80). -/
structure Frame where
  now      : Time
  modeRaw  : Raw
  rateRaw  : Raw
  rangeRaw : Raw
  trig     : Bool
deriving DecidableEq, Repr

/-- The four fields that the ModeSelector forwards to a mode step; `mode_raw` is not forwarded (rule R160). -/
structure Forwarded where
  now      : Time
  rateRaw  : Raw
  rangeRaw : Raw
  trig     : Bool
deriving DecidableEq, Repr

/-- The fields of a frame that a mode step sees (rule R160). -/
def Frame.forwarded (f : Frame) : Forwarded := ⟨f.now, f.rateRaw, f.rangeRaw, f.trig⟩

/-- The operations of rule R87. -/
inductive Instr where
  /-- `QK.UPDATE(K, raw)`, rule R103 -/
  | qkUpdate (k : KnobId) (raw : Raw)
  /-- `QK.GETINDEX(K)`, rule R105 -/
  | qkGetIndex (k : KnobId)
  /-- `QK.GETRAW(K)`, rule R106 -/
  | qkGetRaw (k : KnobId)
  /-- `QK.MAPINDEX(K, a, b)`, rule R107 -/
  | qkMapIndex (k : KnobId) (a b : Time)
  /-- `QK.MAPINNERRAW(K, a, b)`, rule R108 -/
  | qkMapInnerRaw (k : KnobId) (a b : Time)
  /-- `QK.CONFIG(K, nv, hyst)`, rule R109 -/
  | qkConfig (k : KnobId) (nv : Buckets) (hyst : Margin)
  /-- `CK.UPDATE(C, raw)`, rule R122 -/
  | ckUpdate (c : CurveId) (raw : Raw)
  /-- `CK.SETCURVE(C, sel)`, rule R123 -/
  | ckSetCurve (c : CurveId) (sel : Index)
  /-- `CK.GETVALUE(C)`, rule R124 -/
  | ckGetValue (c : CurveId)
  /-- `PC.START(P, t)`, rule R140 -/
  | pcStart (p : ClockId) (t : Time)
  /-- `PC.STOP(P)`, rule R141 -/
  | pcStop (p : ClockId)
  /-- `PC.SYNC(P, target)`, rule R142 -/
  | pcSync (p : ClockId) (target : Duty)
  /-- `PC.UPDATE(P, t)`, rule R143 -/
  | pcUpdate (p : ClockId) (t : Time)
  /-- `PC.SETPERIOD(P, p)`, rule R144 -/
  | pcSetPeriod (p : ClockId) (period : Time)
  /-- `PC.SETDUTY(P, d)`, rule R145 -/
  | pcSetDuty (p : ClockId) (duty : Duty)
  /-- `PC.GETSTATE(P)`, rule R137 -/
  | pcGetState (p : ClockId)
  /-- `PC.ISRISING(P)`, rule R138 -/
  | pcIsRising (p : ClockId)
  /-- `PC.ISFALLING(P)`, rule R139 -/
  | pcIsFalling (p : ClockId)
  /-- `RESET`, rule R198 -/
  | reset
  /-- `FRAME(F)`, rule R191 -/
  | frame (f : Frame)
  /-- `MODE.CLOCK(now, rate_raw, range_raw, trig)`, rule R162 -/
  | modeClock (x : Forwarded)
  /-- `MODE.BURST(now, rate_raw, range_raw, trig)`, rule R168 -/
  | modeBurst (x : Forwarded)
  /-- `MODE.DIVIDE(now, rate_raw, range_raw, trig)`, rule R175 -/
  | modeDivide (x : Forwarded)
  /-- `MODE.MULTIPLY(now, rate_raw, range_raw, trig)`, rule R176 -/
  | modeMultiply (x : Forwarded)
deriving DecidableEq, Repr

end Sys2Proof
end

