-- ==== Sys2Proof/WellFormed.lean ====
section
/-! DEFINITION. Which terms of `Instr` are operations of this hardware. Every operand has the width its rule
gives it, so two checks remain: the legal `nv` of QK.CONFIG (rule R109) and the CurveKnob that has a selector
(rule R123). -/

namespace Sys2Proof

/-- Well-formedness of an operation. -/
def Instr.wf : Instr → Bool
  | .qkConfig _ nv _ => bucketsLegal nv
  | .ckSetCurve c _ => c == .clkRate
  | .qkUpdate _ _ | .qkGetIndex _ | .qkGetRaw _ | .qkMapIndex _ _ _ | .qkMapInnerRaw _ _ _ => true
  | .ckUpdate _ _ | .ckGetValue _ => true
  | .pcStart _ _ | .pcStop _ | .pcSync _ _ | .pcUpdate _ _ | .pcSetPeriod _ _ | .pcSetDuty _ _ => true
  | .pcGetState _ | .pcIsRising _ | .pcIsFalling _ => true
  | .reset | .frame _ | .modeClock _ | .modeBurst _ | .modeDivide _ | .modeMultiply _ => true

end Sys2Proof
end

