-- ==== Sys2Proof/Decode.lean ====
section
/-! DEFINITION. The frame word of 30_encoding.md rule R82, the decoder of command words and, after it, the encoder.

The spec encodes two things: the frame word `F` (rule R82) and the 5-bit `opid` of each operation (rule R87). It
gives the other operands no bits ("not encoded"). Their places are the model's own (DESIGN CHOICE, log 6):

    bits 4..0    opid (rule R87), bits 7..5 zero
    unit operations: bits 15..8 the unit, bits 47..16 the first operand, bits 79..48 the second, zero where absent
    FRAME and the mode steps: bits 70..8 the frame word F (its mode_raw zero in a mode step), bits 79..71 zero
    RESET: all other bits zero

QK.CONFIG's `nv`, legal 1..16, stands in its field as `nv - 1` (DESIGN CHOICE, log 7). -/

namespace Sys2Proof

/-- Why a word is no command: raised by `decode`, answered by the step as a refusal. All are safe: the spec gives
none of these words a meaning (rule R88). -/
inductive DecodeError where
  /-- The opid is one of 0x06, 0x07, 0x0B to 0x0F, 0x19, which rule R88 (c) leaves unassigned and a decoder rejects. -/
  | unassignedOpid (opid : Nat)
  /-- The unit field names no unit of the kind the operation acts on (rule R7). -/
  | noSuchUnit
  /-- CK.SETCURVE on `BST.kRate`, which has no selector (rule R123). -/
  | noSelector
  /-- A bit that the layout leaves unused is 1, or an operand is wider than its rule says (log 6). -/
  | reservedBits
deriving DecidableEq, Repr

/-! ### The frame word -/

/-- The fields of a frame word (rule R82). -/
def frameOfWord (w : FrameWord) : Frame where
  now := w.extractLsb' 31 32
  modeRaw := w.extractLsb' 21 10
  rateRaw := w.extractLsb' 11 10
  rangeRaw := w.extractLsb' 1 10
  trig := w.getLsbD 0

/-! ### The decoder -/

/-- The byte that holds the opid. -/
def opField (w : CmdWord) : BitVec 8 := w.extractLsb' 0 8

/-- The byte that names the unit. -/
def unitField (w : CmdWord) : BitVec 8 := w.extractLsb' 8 8

/-- The first operand field. -/
def argField1 (w : CmdWord) : BitVec 32 := w.extractLsb' 16 32

/-- The second operand field. -/
def argField2 (w : CmdWord) : BitVec 32 := w.extractLsb' 48 32

/-- Everything above the opid byte. -/
def restField (w : CmdWord) : BitVec 72 := w.extractLsb' 8 72

/-- The knob a unit number names (rule R7's order). -/
def knobOfUnit (u : BitVec 8) : Except DecodeError KnobId :=
  match u.toNat with
  | 0 => .ok .msMode
  | 1 => .ok .clkRate
  | 2 => .ok .clkRange
  | 3 => .ok .bstRate
  | 4 => .ok .bstRepeat
  | 5 => .ok .divRate
  | 6 => .ok .divRange
  | 7 => .ok .mulRate
  | 8 => .ok .mulRange
  | _ => .error .noSuchUnit

/-- The CurveKnob a unit number names. -/
def curveOfUnit (u : BitVec 8) : Except DecodeError CurveId :=
  match u.toNat with
  | 0 => .ok .clkRate
  | 1 => .ok .bstRate
  | _ => .error .noSuchUnit

/-- The CurveKnob of a CK.SETCURVE: the one that has a selector (rule R123). -/
def selectorOfUnit (u : BitVec 8) : Except DecodeError CurveId :=
  match u.toNat with
  | 0 => .ok .clkRate
  | 1 => .error .noSelector
  | _ => .error .noSuchUnit

/-- The PhaseClock a unit number names. -/
def clockOfUnit (u : BitVec 8) : Except DecodeError ClockId :=
  match u.toNat with
  | 0 => .ok .clk
  | 1 => .ok .bst
  | 2 => .ok .div
  | 3 => .ok .mul
  | _ => .error .noSuchUnit

/-- An operand field read at the operand's own width `n`; the bits above it are zero. -/
def narrow (n : Nat) (x : BitVec 32) : Except DecodeError (BitVec n) :=
  if x.toNat < 2 ^ n then .ok (x.setWidth n) else .error .reservedBits

/-- `a` where the bits `x`, which the operation does not use, are zero. -/
def whenZero {n : Nat} {α : Type} (x : BitVec n) (a : α) : Except DecodeError α :=
  if x = 0#n then .ok a else .error .reservedBits

/-- A unit operation without operands. -/
def decodeUnit0 {α : Type} (unit : BitVec 8 → Except DecodeError α) (w : CmdWord) (mk : α → Instr) :
    Except DecodeError Instr :=
  (unit (unitField w)).bind fun u =>
  (whenZero (argField1 w) ()).bind fun _ =>
  whenZero (argField2 w) (mk u)

/-- A unit operation with one operand of `n` bits. -/
def decodeUnit1 {α : Type} (unit : BitVec 8 → Except DecodeError α) (n : Nat) (w : CmdWord)
    (mk : α → BitVec n → Instr) : Except DecodeError Instr :=
  (unit (unitField w)).bind fun u =>
  (narrow n (argField1 w)).bind fun x =>
  whenZero (argField2 w) (mk u x)

/-- A unit operation with operands of `n` and `m` bits. -/
def decodeUnit2 {α : Type} (unit : BitVec 8 → Except DecodeError α) (n m : Nat) (w : CmdWord)
    (mk : α → BitVec n → BitVec m → Instr) : Except DecodeError Instr :=
  (unit (unitField w)).bind fun u =>
  (narrow n (argField1 w)).bind fun x =>
  (narrow m (argField2 w)).bind fun y =>
  .ok (mk u x y)

/-- The operation FRAME: its frame word is any value of 63 bits (rule R88 (a)). -/
def decodeFrame (w : CmdWord) : Except DecodeError Instr :=
  whenZero ((restField w).extractLsb' 63 9) (.frame (frameOfWord ((restField w).extractLsb' 0 63)))

/-- A mode step: a frame word without `mode_raw`, which is not forwarded (rule R160). -/
def decodeMode (w : CmdWord) (mk : Forwarded → Instr) : Except DecodeError Instr :=
  let f := frameOfWord ((restField w).extractLsb' 0 63)
  (whenZero ((restField w).extractLsb' 63 9) ()).bind fun _ =>
  whenZero f.modeRaw (mk f.forwarded)

/-- The bucket count that a field of `nv - 1` stands for (log 7). -/
def bucketsOfField (x : BitVec 4) : Buckets := x.setWidth 5 + 1#5

/-- The decoder: opids as in rule R87; an unassigned opid is rejected (rule R88 (c)). -/
def decode (w : CmdWord) : Except DecodeError Instr :=
  match (opField w).toNat with
  | 0x00 => decodeUnit1 knobOfUnit 10 w .qkUpdate
  | 0x01 => decodeUnit0 knobOfUnit w .qkGetIndex
  | 0x02 => decodeUnit0 knobOfUnit w .qkGetRaw
  | 0x03 => decodeUnit2 knobOfUnit 32 32 w .qkMapIndex
  | 0x04 => decodeUnit2 knobOfUnit 32 32 w .qkMapInnerRaw
  | 0x05 => decodeUnit2 knobOfUnit 4 10 w fun k x h => .qkConfig k (bucketsOfField x) h
  | 0x08 => decodeUnit1 curveOfUnit 10 w .ckUpdate
  | 0x09 => decodeUnit1 selectorOfUnit 4 w .ckSetCurve
  | 0x0A => decodeUnit0 curveOfUnit w .ckGetValue
  | 0x10 => decodeUnit1 clockOfUnit 32 w .pcStart
  | 0x11 => decodeUnit0 clockOfUnit w .pcStop
  | 0x12 => decodeUnit1 clockOfUnit 17 w .pcSync
  | 0x13 => decodeUnit1 clockOfUnit 32 w .pcUpdate
  | 0x14 => decodeUnit1 clockOfUnit 32 w .pcSetPeriod
  | 0x15 => decodeUnit1 clockOfUnit 17 w .pcSetDuty
  | 0x16 => decodeUnit0 clockOfUnit w .pcGetState
  | 0x17 => decodeUnit0 clockOfUnit w .pcIsRising
  | 0x18 => decodeUnit0 clockOfUnit w .pcIsFalling
  | 0x1A => whenZero (restField w) .reset
  | 0x1B => decodeFrame w
  | 0x1C => decodeMode w .modeClock
  | 0x1D => decodeMode w .modeBurst
  | 0x1E => decodeMode w .modeDivide
  | 0x1F => decodeMode w .modeMultiply
  | n => if n < 32 then .error (.unassignedOpid n) else .error .reservedBits

/-! ### The encoder -/

/-- The frame word of a frame: `F = {now, mode_raw, rate_raw, range_raw, trig}` (rule R82). -/
def frameToWord (f : Frame) : FrameWord :=
  f.now ++ f.modeRaw ++ f.rateRaw ++ f.rangeRaw ++ BitVec.ofBool f.trig

/-- The number of a knob in rule R7's order. -/
def unitOfKnob : KnobId → BitVec 8
  | .msMode => 0#8
  | .clkRate => 1#8
  | .clkRange => 2#8
  | .bstRate => 3#8
  | .bstRepeat => 4#8
  | .divRate => 5#8
  | .divRange => 6#8
  | .mulRate => 7#8
  | .mulRange => 8#8

/-- The number of a CurveKnob. -/
def unitOfCurve : CurveId → BitVec 8
  | .clkRate => 0#8
  | .bstRate => 1#8

/-- The number of a PhaseClock. -/
def unitOfClock : ClockId → BitVec 8
  | .clk => 0#8
  | .bst => 1#8
  | .div => 2#8
  | .mul => 3#8

/-- The word of a unit operation. -/
def unitWord (op unit : BitVec 8) (x y : BitVec 32) : CmdWord := y ++ x ++ unit ++ op

/-- The word of FRAME or of a mode step. -/
def frameCmdWord (op : BitVec 8) (f : FrameWord) : CmdWord := 0#9 ++ f ++ op

/-- The frame word of the operands of a mode step, `mode_raw` zero. -/
def forwardedToWord (x : Forwarded) : FrameWord := frameToWord ⟨x.now, 0#_, x.rateRaw, x.rangeRaw, x.trig⟩

/-- The encoder: the command word of an operation. -/
def encode : Instr → CmdWord
  | .qkUpdate k raw => unitWord 0x00#8 (unitOfKnob k) (raw.setWidth 32) 0#32
  | .qkGetIndex k => unitWord 0x01#8 (unitOfKnob k) 0#32 0#32
  | .qkGetRaw k => unitWord 0x02#8 (unitOfKnob k) 0#32 0#32
  | .qkMapIndex k a b => unitWord 0x03#8 (unitOfKnob k) a b
  | .qkMapInnerRaw k a b => unitWord 0x04#8 (unitOfKnob k) a b
  | .qkConfig k nv hyst => unitWord 0x05#8 (unitOfKnob k) ((nv - 1#5).setWidth 32) (hyst.setWidth 32)
  | .ckUpdate c raw => unitWord 0x08#8 (unitOfCurve c) (raw.setWidth 32) 0#32
  | .ckSetCurve c sel => unitWord 0x09#8 (unitOfCurve c) (sel.setWidth 32) 0#32
  | .ckGetValue c => unitWord 0x0A#8 (unitOfCurve c) 0#32 0#32
  | .pcStart p t => unitWord 0x10#8 (unitOfClock p) t 0#32
  | .pcStop p => unitWord 0x11#8 (unitOfClock p) 0#32 0#32
  | .pcSync p target => unitWord 0x12#8 (unitOfClock p) (target.setWidth 32) 0#32
  | .pcUpdate p t => unitWord 0x13#8 (unitOfClock p) t 0#32
  | .pcSetPeriod p period => unitWord 0x14#8 (unitOfClock p) period 0#32
  | .pcSetDuty p duty => unitWord 0x15#8 (unitOfClock p) (duty.setWidth 32) 0#32
  | .pcGetState p => unitWord 0x16#8 (unitOfClock p) 0#32 0#32
  | .pcIsRising p => unitWord 0x17#8 (unitOfClock p) 0#32 0#32
  | .pcIsFalling p => unitWord 0x18#8 (unitOfClock p) 0#32 0#32
  | .reset => 0x1A#80
  | .frame f => frameCmdWord 0x1B#8 (frameToWord f)
  | .modeClock x => frameCmdWord 0x1C#8 (forwardedToWord x)
  | .modeBurst x => frameCmdWord 0x1D#8 (forwardedToWord x)
  | .modeDivide x => frameCmdWord 0x1E#8 (forwardedToWord x)
  | .modeMultiply x => frameCmdWord 0x1F#8 (forwardedToWord x)

/-! ### The opcode table's words -/

/-- The command word of an instruction whose lowest `nbits` bits are those of `w` and whose other bits are 0. -/
def tableWord (nbits w : Nat) : CmdWord := BitVec.ofNat 80 (w % 2 ^ nbits)

/-- The instruction the decoder reads from the opcode table's word `w` of `nbits` bits, the bits above them zero. -/
def decodeTableWord (nbits w : Nat) : Option Instr :=
  match decode (tableWord nbits w) with
  | .ok i => some i
  | .error _ => none

end Sys2Proof
end

