-- ==== Sys2Proof/Machine/Arith.lean ====
section
/-! DEFINITION. The arithmetic primitives of 00_scope.md rule R10 and the formulas built on them that no state is
needed for: the knob's step and window (rules R101, R102), the projection (rules R107, R108), the phase mapping
(rule R136) and the follower period (rule R177). Arithmetic is on unbounded integers; a width appears only where a
value is stored (rule R10). -/

namespace Sys2Proof.Machine

/-- `sub_T(a, b)`, the difference of two timestamps modulo 2^32 (rules R10, R12). -/
def subT (a b : Time) : Time := a - b

/-- `trunc_div(a, b)`, division of a signed dividend that rounds toward zero (rules R10, R13). -/
def truncDiv (a : Int) (b : Nat) : Int := a.tdiv b

/-- `clamp(v, lo, hi)` (rule R10). -/
def clamp (v lo hi : Nat) : Nat := min (max v lo) hi

/-- `step(N) = floor_div(RANGE, N)` (rule R101). -/
def bucketStep (n : BucketCount) : Nat := rawRange / n.toNat

/-- The lower end of `window(K, i)`: `max(i*step - h, 0)` (rule R102). -/
def windowLower (n : BucketCount) (h : Margin) (i : Index) : Raw :=
  BitVec.ofNat _ (i.toNat * bucketStep n - h.toNat)

/-- The upper end of `window(K, i)`: `min(i*step + step + h, RANGE_MAX)` (rule R102). -/
def windowUpper (n : BucketCount) (h : Margin) (i : Index) : Raw :=
  BitVec.ofNat _ (min (i.toNat * bucketStep n + bucketStep n + h.toNat) rawMax)

/-- The bucket of a reading: `min(floor_div(raw, step), N - 1)` (rule R103). -/
def bucketOf (n : BucketCount) (raw : Raw) : Index :=
  BitVec.ofNat _ (min (raw.toNat / bucketStep n) (n.toNat - 1))

/-- The linear projection `a + trunc_div(pos * (b - a), span)`, product first (rules R13, R107, R108). -/
def project (pos span : Nat) (a b : Time) : Time :=
  BitVec.ofInt _ (a.toNat + truncDiv (pos * ((b.toNat : Int) - a.toNat)) span)

/-- `to_phase(e, p) = floor_div(e * PHASE_MAX, p)` (rule R136). -/
def toPhase (e p : Nat) : Nat := e * phaseMax / p

/-- `to_time(ph, p) = floor_div(ph * p, PHASE_MAX)` (rule R136). -/
def toTime (ph p : Nat) : Nat := ph * p / phaseMax

/-- `follower_period(isMultiply, est, num, den)`, the quotient reduced modulo 2^32 (rule R177). -/
def followerPeriod (isMultiply : Bool) (est : Time) (q : Ratio) : Time :=
  if isMultiply then BitVec.ofNat _ (est.toNat * q.num.toNat / q.den.toNat)
  else BitVec.ofNat _ (est.toNat * q.den.toNat / q.num.toNat)

end Sys2Proof.Machine
end

