-- ==== Sys2Proof/Machine/State.lean ====
section
/-! DEFINITION. The state of the core (10_state.md), plain data, and its value after reset (rule R35). -/

namespace Sys2Proof.Machine

/-- One QuantizedKnob, configuration and state (rule R21). `step` is derived and not stored. -/
structure QuantizedKnob where
  numValues    : BucketCount
  hysteresis   : Margin
  currentIndex : Index
  lastRaw      : Raw
  lowerBound   : Raw
  upperBound   : Raw
deriving DecidableEq, Repr

/-- The CurveKnob with a swappable curve, `CLK.kRate`: a QuantizedKnob, the number of its curves (`CLK_NCURVES`, a constant of
the instance, log 10) and the selector of the active curve, of `ceil(log2(nCurves))` bits and in 0..`nCurves`-1 by its type (rule R24).
`BST.kRate` has no selector and is a plain QuantizedKnob here. -/
structure CurveKnob where
  k        : QuantizedKnob
  nCurves  : BucketCount
  curveSel : BitVec (selectorWidth nCurves)
  inRange  : curveSel.toNat < nCurves.toNat
deriving DecidableEq, Repr

/-- One PhaseClock (rule R25). -/
structure PhaseClock where
  period             : Time
  duty               : Duty
  phase              : Phase
  running            : Bool
  previousState      : Bool
  lastRisingEdgeTime : Time
  lastObservedTime   : Time
deriving DecidableEq, Repr

/-- ClockMode `CLK` (rules R20, R28). -/
structure ClockMode where
  kRate    : CurveKnob
  kRange   : QuantizedKnob
  clk      : PhaseClock
  prevTrig : Bool
deriving DecidableEq, Repr

/-- BurstMode `BST` (rules R20, R29). -/
structure BurstMode where
  kRate    : QuantizedKnob
  kRepeat  : QuantizedKnob
  clk      : PhaseClock
  gates    : GateCount
  prevTrig : Bool
deriving DecidableEq, Repr

/-- A DivideMultiplyMode, `DIV` or `MUL` (rules R20, R30). -/
structure DivMulMode where
  kRate      : QuantizedKnob
  kRange     : QuantizedKnob
  clk        : PhaseClock
  prevIn     : Bool
  lastInRise : Time
deriving DecidableEq, Repr

/-- The value an operation returns, the result column of rule R87 (the model's own field: log 4). -/
inductive Result where
  /-- The operation returns nothing. -/
  | none
  /-- `index[3:0]` of QK.GETINDEX -/
  | index (v : Index)
  /-- `raw[9:0]` of QK.GETRAW -/
  | raw (v : Raw)
  /-- `value[31:0]` of QK.MAPINDEX, QK.MAPINNERRAW, CK.GETVALUE -/
  | value (v : Time)
  /-- one bit: `advanced` of PC.UPDATE, the state or the edge of the three predicates -/
  | bit (v : Bool)
  /-- `out[7:0]` of a mode step, `out_level[7:0]` of FRAME -/
  | level (v : Level)
deriving DecidableEq, Repr

/-- The input ports as sampled at one rising edge of `clk` (rule R81). -/
structure PortSample where
  rst     : Bool
  inValid : Bool
  inTime  : Time
  inMode  : Raw
  inRate  : Raw
  inRange : Raw
  inTrig  : Bool
deriving DecidableEq, Repr

/-- One thing presented to the core (the model's own notion: log 5). -/
inductive Input where
  /-- one operation of rule R87, as a command word -/
  | word (w : CmdWord)
  /-- one rising edge of `clk` with these values at the ports -/
  | edge (p : PortSample)
deriving DecidableEq, Repr

/-- The state of the core (rule R20), the interface outputs of rule R35, and the model's own fields `config` (log 1),
`input` (log 5) and `result` (log 4). -/
structure State where
  kMode    : QuantizedKnob
  clkMode  : ClockMode
  bstMode  : BurstMode
  divMode  : DivMulMode
  mulMode  : DivMulMode
  outLevel : Level
  inReady  : Bool
  outValid : Bool
  config   : Config
  input    : List Input
  result   : Result
deriving DecidableEq, Repr

/-- Faults: there are none. "The core raises no exception, trap, fault or error indication of any kind" and "A model needs
no fault outcome for any operation of this core" (rule R205); safe, since every operation is total. -/
inductive Fault
deriving DecidableEq, Repr

/-- Why the model gives an operation no meaning. None arises from a decodable command word or from a port. -/
inductive Refusal where
  /-- An operation whose meaning is not written yet: raised by `exec` alone; no arm does. Safe. -/
  | notModelled (mnemonic : String)
  /-- The word presented is no command (rule R88 (c)): raised by `step`. Safe: it stops where the spec defines nothing. -/
  | undecodable (e : DecodeError)
  /-- QK.CONFIG with `nv` = 0 or `nv` > 16, outside the hardware (rules R8, R109): raised by QK.CONFIG. Safe. -/
  | illegalNumValues
  /-- CK.SETCURVE on `BST.kRate`, which has no selector (rule R123): raised by CK.SETCURVE. Safe. -/
  | noCurveSelector
deriving DecidableEq, Repr

/-! ### Reset -/

/-- A knob after reset: index 0, `lastRaw` 0, the window of index 0; its configuration is the one it has (rule R35,
log 2). -/
def QuantizedKnob.atReset (n : BucketCount) (h : Margin) : QuantizedKnob where
  numValues := n
  hysteresis := h
  currentIndex := 0#_
  lastRaw := 0#_
  lowerBound := windowLower n h 0#_
  upperBound := windowUpper n h 0#_

/-- A CurveKnob after reset: its knob after reset, curve 0 (rule R35). -/
def CurveKnob.atReset (n : BucketCount) (h : Margin) (nCurves : BucketCount) : CurveKnob where
  k := .atReset n h
  nCurves := nCurves
  curveSel := 0#_
  inRange := by rw [BitVec.toNat_ofNat, Nat.zero_mod]; exact nCurves.bounds.1

/-- A clock after reset, Running or Stopped (rules R35, R227). -/
def PhaseClock.atReset (running : Bool) : PhaseClock where
  period := 0#_
  duty := dutyDefault
  phase := 0#_
  running := running
  previousState := false
  lastRisingEdgeTime := 0#_
  lastObservedTime := 0#_

/-- The state after reset of a core built with configuration `c` (rules R7, R35, R226). -/
def State.ofConfig (c : Config) : State where
  kMode := .atReset modeBuckets c.hMode
  clkMode :=
    { kRate := .atReset c.clkRateNv c.hClkRate c.clkNCurves
      kRange := .atReset c.clkNCurves c.hClkRange
      clk := .atReset true
      prevTrig := false }
  bstMode :=
    { kRate := .atReset bstRateBuckets c.hBstRate
      kRepeat := .atReset c.bstNRep c.hBstRepeat
      clk := .atReset false
      gates := 0#_
      prevTrig := false }
  divMode :=
    { kRate := .atReset dmRateBuckets c.hDmRate
      kRange := .atReset c.dmNTables c.hDmRange
      clk := .atReset true
      prevIn := false
      lastInRise := 0#_ }
  mulMode :=
    { kRate := .atReset dmRateBuckets c.hDmRate
      kRange := .atReset c.dmNTables c.hDmRange
      clk := .atReset true
      prevIn := false
      lastInRise := 0#_ }
  outLevel := outLow
  inReady := true
  outValid := false
  config := c
  input := []
  result := .none

/-- The machine right after reset, with the reference configuration of rule R7 (DESIGN CHOICE of the open parameters:
log 1). -/
def State.reset : State := State.ofConfig Config.reference

end Sys2Proof.Machine
end

