-- ==== Sys2Proof/Machine/Flags.lean ====
section
/-! DEFINITION. The predicates of 10_state.md rule R27: the clock state, its edges, the trigger's edges, and the
widening of a clock state to an output level. -/

namespace Sys2Proof.Machine

/-- `PC.GETSTATE(P)`: `running = 1 and phase < duty` (rule R137). -/
def PhaseClock.getState (p : PhaseClock) : Bool := p.running && decide (p.phase.toNat < p.duty.toNat)

/-- `PC.ISRISING(P)`: previous state false, current state true (rule R138). -/
def PhaseClock.isRising (p : PhaseClock) : Bool := !p.previousState && p.getState

/-- `PC.ISFALLING(P)`: previous state true, current state false (rule R139). -/
def PhaseClock.isFalling (p : PhaseClock) : Bool := p.previousState && !p.getState

/-- A rising edge of the trigger against the stored copy of its level (rule R208). -/
def trigRise (trig prev : Bool) : Bool := trig && !prev

/-- A falling edge of the trigger against the stored copy of its level (rule R208). -/
def trigFall (trig prev : Bool) : Bool := !trig && prev

/-- `widen(s)`: 255 for true, 0 for false (rules R84, R161). -/
def widen (s : Bool) : Level := if s then outMax else outLow

end Sys2Proof.Machine
end

