-- ==== Sys2Proof/Machine/Operands.lean ====
section
/-! DEFINITION. The operand forms: which part of the state a unit operand names (00_scope.md rule R7), the mode a
knob index selects (30_encoding.md rule R86), and the frame at the ports (rule R82). -/

namespace Sys2Proof.Machine

/-- The knob a unit operand names. -/
def State.knob (s : State) : KnobId → QuantizedKnob
  | .msMode => s.kMode
  | .clkRate => s.clkMode.kRate.k
  | .clkRange => s.clkMode.kRange
  | .bstRate => s.bstMode.kRate
  | .bstRepeat => s.bstMode.kRepeat
  | .divRate => s.divMode.kRate
  | .divRange => s.divMode.kRange
  | .mulRate => s.mulMode.kRate
  | .mulRange => s.mulMode.kRange

/-- The state with the named knob replaced. -/
def State.setKnob (s : State) (id : KnobId) (q : QuantizedKnob) : State :=
  match id with
  | .msMode => { s with kMode := q }
  | .clkRate => { s with clkMode := { s.clkMode with kRate := { s.clkMode.kRate with k := q } } }
  | .clkRange => { s with clkMode := { s.clkMode with kRange := q } }
  | .bstRate => { s with bstMode := { s.bstMode with kRate := q } }
  | .bstRepeat => { s with bstMode := { s.bstMode with kRepeat := q } }
  | .divRate => { s with divMode := { s.divMode with kRate := q } }
  | .divRange => { s with divMode := { s.divMode with kRange := q } }
  | .mulRate => { s with mulMode := { s.mulMode with kRate := q } }
  | .mulRange => { s with mulMode := { s.mulMode with kRange := q } }

/-- The PhaseClock a unit operand names. -/
def State.clock (s : State) : ClockId → PhaseClock
  | .clk => s.clkMode.clk
  | .bst => s.bstMode.clk
  | .div => s.divMode.clk
  | .mul => s.mulMode.clk

/-- The state with the named PhaseClock replaced. -/
def State.setClock (s : State) (id : ClockId) (p : PhaseClock) : State :=
  match id with
  | .clk => { s with clkMode := { s.clkMode with clk := p } }
  | .bst => { s with bstMode := { s.bstMode with clk := p } }
  | .div => { s with divMode := { s.divMode with clk := p } }
  | .mul => { s with mulMode := { s.mulMode with clk := p } }

/-- The state with `CLK.kRate` replaced (rule R24). -/
def State.setClkRate (s : State) (c : CurveKnob) : State := { s with clkMode := { s.clkMode with kRate := c } }

/-- The state with an operation's result recorded (log 4). -/
def State.withResult (s : State) (r : Result) : State := { s with result := r }

/-- The behaviour a free choice of four names (log 9). -/
def modeOfChoice : Fin 4 → ModeId
  | 0 => .clock
  | 1 => .burst
  | 2 => .divide
  | 3 => .multiply

/-- The behaviour that mode index `m` selects: the assignment of rules R86 and R192; a free choice above 3 (log 9). -/
def modeOfIndex (m : Index) : ModeId :=
  match m.toNat with
  | 0 => .clock
  | 1 => .burst
  | 2 => .divide
  | 3 => .multiply
  | _ => modeOfChoice (Config.freeMode m)

/-- The frame that the `in_*` ports carry (rules R82, R85). -/
def PortSample.frame (p : PortSample) : Frame := ⟨p.inTime, p.inMode, p.inRate, p.inRange, p.inTrig⟩

/-- Whether an instance divides or multiplies: hard-wired (rules R30, R32). -/
def isMultiply : ModeId → Bool
  | .multiply => true
  | .clock | .burst | .divide => false

end Sys2Proof.Machine
end

