-- ==== Sys2Proof/Machine/Ops.lean ====
section
/-! DEFINITION. The shared operations: table reads (20_memory.md rule R61), the unit operations on one
QuantizedKnob (40_quantized_knob.md), CurveKnob (41_curve_knob.md) and PhaseClock (42_phase_clock.md), the step of
each behaviour (43_modes.md) and the reset of every state element (10_state.md rule R35).

There is no operation that takes or returns from an exception: "There is no trap entry" (60_exceptions.md rule R210),
"There is no trap return" (rule R211). -/

namespace Sys2Proof.Machine

/-! ### Table reads -/

/-- `TBL(CLK_CURVE, c, j)` (rule R62). -/
def clkBreakpoint (tb : Tables) (c j : Nat) : Breakpoint :=
  ((tb.clkCurve[c]?).bind fun row => row[j]?).getD (Config.freeClkBreakpoint tb c j)

/-- `TBL(BST_CURVE, j)` (rule R63). -/
def bstBreakpoint (tb : Tables) (j : Nat) : Breakpoint :=
  (tb.bstCurve[j]?).getD (Config.freeBstBreakpoint tb j)

/-- A number of 1..255, given less one (rule R8). -/
def term8 (x : Fin 255) : RatioTerm := BitVec.ofNat _ (x.val + 1)

theorem term8_ne_zero (x : Fin 255) : term8 x ≠ 0#_ := by
  have h : (term8 x).toNat = x.val + 1 := Nat.mod_eq_of_lt (by omega)
  intro h0
  rw [h0] at h
  simp at h

/-- `TBL(BST_REPEAT, r)` (rule R64). -/
def repeatCount (tb : Tables) (r : Nat) : RepeatCount :=
  (tb.bstRepeat[r]?).getD ⟨term8 (Config.freeRepeat tb r), term8_ne_zero _⟩

/-- A ratio whose terms are one more than the two given (rule R8: 1..255). -/
def ratioOfChoice (c : Fin 255 × Fin 255) : Ratio :=
  ⟨term8 c.1, term8 c.2, term8_ne_zero _, term8_ne_zero _⟩

/-- `TBL(DIV_RATIO, t, r)` (rule R65). -/
def divRatio (tb : Tables) (t r : Nat) : Ratio :=
  ((tb.divRatio[t]?).bind fun row => row[r]?).getD (ratioOfChoice (Config.freeDivRatio tb t r))

/-- `TBL(MUL_RATIO, t, r)` (rule R65). -/
def mulRatio (tb : Tables) (t r : Nat) : Ratio :=
  ((tb.mulRatio[t]?).bind fun row => row[r]?).getD (ratioOfChoice (Config.freeMulRatio tb t r))

/-! ### QuantizedKnob -/

/-- A knob whose window is rewritten as `window(K, i)` for its new index `i` (rule R102). -/
def QuantizedKnob.atIndex (q : QuantizedKnob) (i : Index) : QuantizedKnob :=
  { q with
    currentIndex := i
    lowerBound := windowLower q.numValues q.hysteresis i
    upperBound := windowUpper q.numValues q.hysteresis i }

/-- Whether a reading is inside the window, both ends included (rule R102). -/
def QuantizedKnob.inWindow (q : QuantizedKnob) (raw : Raw) : Bool :=
  decide (q.lowerBound.toNat ≤ raw.toNat) && decide (raw.toNat ≤ q.upperBound.toNat)

/-- `QK.UPDATE(K, raw)` (rule R103). -/
def QuantizedKnob.update (q : QuantizedKnob) (raw : Raw) : QuantizedKnob :=
  let q' := if q.inWindow raw then q else q.atIndex (bucketOf q.numValues raw)
  { q' with lastRaw := raw }

/-- `QK.MAPINDEX(K, a, b)` (rule R107). -/
def QuantizedKnob.mapIndex (q : QuantizedKnob) (a b : Time) : Time :=
  project q.currentIndex.toNat q.numValues.toNat a b

/-- `QK.MAPINNERRAW(K, a, b)` (rule R108). -/
def QuantizedKnob.mapInnerRaw (q : QuantizedKnob) (a b : Time) : Time :=
  let r := clamp q.lastRaw.toNat q.lowerBound.toNat q.upperBound.toNat
  project (r - q.lowerBound.toNat) (q.upperBound.toNat - q.lowerBound.toNat) a b

/-- `QK.CONFIG(K, nv, hyst)` for a legal `nv` (rule R109): the index is clamped, `lastRaw` stays. -/
def QuantizedKnob.config (q : QuantizedKnob) (nv : BucketCount) (hyst : Margin) : QuantizedKnob :=
  ({ q with numValues := nv, hysteresis := hyst } : QuantizedKnob).atIndex
    (BitVec.ofNat _ (min q.currentIndex.toNat (nv.toNat - 1)))

/-! ### CurveKnob -/

/-- The CurveKnob with another of its curves active (rule R24). -/
def CurveKnob.select (c : CurveKnob) (i : Nat) (h : i < c.nCurves.toNat) : CurveKnob :=
  { c with
    curveSel := BitVec.ofNat _ i
    inRange := by
      rw [BitVec.toNat_ofNat]
      exact Nat.lt_of_le_of_lt (Nat.mod_le _ _) h }

/-- `CK.SETCURVE(CLK.kRate, sel)` (rule R123): the knob inside stays. An operand that selects no curve leaves a free selector of
the register's range (log 14). -/
def CurveKnob.setCurve (c : CurveKnob) (sel : Index) : CurveKnob :=
  c.select (if sel.toNat < c.nCurves.toNat then sel.toNat else Config.freeCurveSel c.nCurves sel % c.nCurves.toNat) <| by
    split
    · assumption
    · exact Nat.mod_lt _ c.nCurves.bounds.1

/-- `CK.GETVALUE(CLK.kRate)` (rule R124): breakpoints `i` and `i + 1` of the selected row. -/
def CurveKnob.value (tb : Tables) (c : CurveKnob) : Time :=
  c.k.mapInnerRaw (clkBreakpoint tb c.curveSel.toNat c.k.currentIndex.toNat)
    (clkBreakpoint tb c.curveSel.toNat (c.k.currentIndex.toNat + 1))

/-- `CK.GETVALUE(BST.kRate)` (rule R124): breakpoints `i` and `i + 1` of the one curve. -/
def bstRateValue (tb : Tables) (q : QuantizedKnob) : Time :=
  q.mapInnerRaw (bstBreakpoint tb q.currentIndex.toNat) (bstBreakpoint tb (q.currentIndex.toNat + 1))

/-! ### PhaseClock -/

/-- `PC.START(P, t)` (rule R140). -/
def PhaseClock.start (p : PhaseClock) (t : Time) : PhaseClock :=
  { p with running := true, phase := 0#_, lastRisingEdgeTime := t, lastObservedTime := t }

/-- `PC.STOP(P)` (rule R141). -/
def PhaseClock.stop (p : PhaseClock) : PhaseClock := { p with running := false, phase := 0#_ }

/-- `PC.SYNC(P, target)` (rule R142): a no-op on a Stopped clock (a target above 65536: log 3). -/
def PhaseClock.sync (p : PhaseClock) (target : Duty) : PhaseClock :=
  if p.running then
    let tp := min target.toNat (phaseMax - 1)
    { p with
      phase := BitVec.ofNat _ tp
      lastRisingEdgeTime := subT p.lastObservedTime (BitVec.ofNat _ (toTime tp p.period.toNat)) }
  else p

/-- Whether `update` executes: Running with a period (rule R143); the operation's result `advanced`. -/
def PhaseClock.advances (p : PhaseClock) : Bool := p.running && p.period != 0#_

/-- The clock after the writes of an executed `update` that precede the edge test (rule R143). -/
def PhaseClock.observe (p : PhaseClock) (t : Time) : PhaseClock :=
  { p with
    previousState := p.getState
    lastObservedTime := t
    phase := BitVec.ofNat _
      (toPhase ((subT t p.lastRisingEdgeTime).toNat % p.period.toNat) p.period.toNat) }

/-- The clock with its anchor moved to `t` if it shows a rising edge (rule R143). -/
def PhaseClock.reanchor (p : PhaseClock) (t : Time) : PhaseClock :=
  if p.isRising then { p with lastRisingEdgeTime := t } else p

/-- `PC.UPDATE(P, t)` (rule R143): nothing is written when Stopped or when the period is 0. -/
def PhaseClock.update (p : PhaseClock) (t : Time) : PhaseClock :=
  if p.advances then (p.observe t).reanchor t else p

/-- `PC.SETPERIOD(P, p)` (rule R144). -/
def PhaseClock.setPeriod (p : PhaseClock) (period : Time) : PhaseClock := { p with period := period }

/-- `PC.SETDUTY(P, d)`: saturates at `PHASE_MAX` (rule R145). -/
def PhaseClock.setDuty (p : PhaseClock) (d : Duty) : PhaseClock :=
  { p with duty := BitVec.ofNat _ (min d.toNat phaseMax) }

/-! ### The steps of the behaviours -/

/-- The step of ClockMode (rule R162), lines 1 to 8. -/
def ClockMode.frameStep (tb : Tables) (x : Forwarded) (c : ClockMode) : ClockMode :=
  let kRange := c.kRange.update x.rangeRaw
  let curve := ({ c.kRate with k := c.kRate.k.update x.rateRaw } : CurveKnob).setCurve kRange.currentIndex
  let clk := (c.clk.setPeriod (curve.value tb)).update x.now
  { kRate := curve
    kRange := kRange
    clk := if trigRise x.trig c.prevTrig then clk.sync 0#_ else clk
    prevTrig := x.trig }

/-- Lines 10 to 14 of rule R168: the gate count of a burst, and the stop at the repeat count. -/
def BurstMode.countGate (tb : Tables) (b : BurstMode) : BurstMode :=
  let gates := b.gates.toNat + 1
  if (repeatCount tb b.kRepeat.currentIndex.toNat).toNat ≤ gates then
    { b with clk := b.clk.stop, gates := 0#_ }
  else { b with gates := BitVec.ofNat _ gates }

/-- Lines 7 to 9 of rule R168: a trigger rise starts the clock and clears the gate count. -/
def BurstMode.trigger (now : Time) (b : BurstMode) : BurstMode :=
  { b with clk := b.clk.start now, gates := 0#_ }

/-- The step of BurstMode (rule R168), lines 1 to 14. -/
def BurstMode.frameStep (tb : Tables) (x : Forwarded) (b : BurstMode) : BurstMode :=
  let kRate := b.kRate.update x.rateRaw
  let clk := b.clk.setPeriod (bstRateValue tb kRate)
  let b1 : BurstMode :=
    { kRate := kRate
      kRepeat := b.kRepeat.update x.rangeRaw
      clk := clk.update x.now
      gates := b.gates
      prevTrig := x.trig }
  let b2 := if trigRise x.trig b.prevTrig then b1.trigger x.now else b1
  if clk.advances && b2.clk.isFalling then b2.countGate tb else b2

/-- Lines 7 to 12 of `DM_STEP` (rule R175): on an input rise, estimate the input period (rule R178), set the follower's
period and synchronise it. -/
def DivMulMode.inputRise (period : Time → Ratio → Time) (ratio : Nat → Nat → Ratio) (now : Time) (d : DivMulMode) :
    DivMulMode :=
  let est := subT now d.lastInRise
  let q := ratio d.kRange.currentIndex.toNat d.kRate.currentIndex.toNat
  { d with lastInRise := now, clk := (d.clk.setPeriod (period est q)).sync 0#_ }

/-- `DM_STEP` (rule R175), lines 1 to 14, with the follower period a parameter (93_implementation_defined.md U7, log 17). -/
def DivMulMode.frameStep (period : Time → Ratio → Time) (ratio : Nat → Nat → Ratio) (x : Forwarded) (d : DivMulMode) :
    DivMulMode :=
  let d1 : DivMulMode :=
    { kRate := d.kRate.update x.rateRaw
      kRange := d.kRange.update x.rangeRaw
      clk := d.clk.update x.now
      prevIn := x.trig
      lastInRise := d.lastInRise }
  let d2 := if trigRise x.trig d.prevIn then d1.inputRise period ratio x.now else d1
  if trigFall x.trig d.prevIn then { d2 with clk := d2.clk.sync d2.clk.duty } else d2

/-- The mode step of one behaviour acting on the state: only that behaviour's part changes (rules R160, R193). -/
def State.runMode (s : State) (m : ModeId) (x : Forwarded) : State :=
  match m with
  | .clock => { s with clkMode := s.clkMode.frameStep s.config.tables x }
  | .burst => { s with bstMode := s.bstMode.frameStep s.config.tables x }
  | .divide =>
    { s with divMode := s.divMode.frameStep (followerPeriod (isMultiply .divide)) (divRatio s.config.tables) x }
  | .multiply =>
    { s with mulMode := s.mulMode.frameStep (followerPeriod (isMultiply .multiply)) (mulRatio s.config.tables) x }

/-- The clock of one behaviour. -/
def clockOfMode : ModeId → ClockId
  | .clock => .clk
  | .burst => .bst
  | .divide => .div
  | .multiply => .mul

/-- What a mode step returns: the state of its clock, widened (rules R160, R161). -/
def State.modeOut (s : State) (m : ModeId) : Level := widen (s.clock (clockOfMode m)).getState

/-! ### The FRAME transaction and RESET -/

/-- FRAME (rule R191): quantise the mode reading, run exactly one behaviour, write the output register. The handshake ends
with `out_valid` = 1 and `in_ready` = 1 (rule R85, log 13). -/
def State.frameStep (s : State) (f : Frame) : State :=
  let kMode := s.kMode.update f.modeRaw
  let m := modeOfIndex kMode.currentIndex
  let s' := ({ s with kMode := kMode } : State).runMode m f.forwarded
  let out := s'.modeOut m
  { s' with outLevel := out, outValid := true, inReady := true, result := .level out }

/-- A knob after RESET (rule R35): its configuration is no state element and stays (log 2). -/
def QuantizedKnob.toReset (q : QuantizedKnob) : QuantizedKnob := .atReset q.numValues q.hysteresis

/-- A CurveKnob after RESET (rule R35): its knob after RESET, curve 0; the number of its curves is a constant. -/
def CurveKnob.toReset (c : CurveKnob) : CurveKnob := .atReset c.k.numValues c.k.hysteresis c.nCurves

/-- RESET (rules R35, R198): every state element takes its reset value; the configuration, which is a parameter, and what the
host has yet to present stay. -/
def State.toReset (s : State) : State where
  kMode := s.kMode.toReset
  clkMode :=
    { kRate := s.clkMode.kRate.toReset
      kRange := s.clkMode.kRange.toReset
      clk := .atReset true
      prevTrig := false }
  bstMode :=
    { kRate := s.bstMode.kRate.toReset
      kRepeat := s.bstMode.kRepeat.toReset
      clk := .atReset false
      gates := 0#_
      prevTrig := false }
  divMode :=
    { kRate := s.divMode.kRate.toReset
      kRange := s.divMode.kRange.toReset
      clk := .atReset true
      prevIn := false
      lastInRise := 0#_ }
  mulMode :=
    { kRate := s.mulMode.kRate.toReset
      kRange := s.mulMode.kRange.toReset
      clk := .atReset true
      prevIn := false
      lastInRise := 0#_ }
  outLevel := outLow
  inReady := true
  outValid := false
  config := s.config
  input := s.input
  result := .none

end Sys2Proof.Machine
end

