-- ==== Sys2Proof/Machine/Clock.lean ====
section
/-! DEFINITION. The nine PhaseClock operations (42_phase_clock.md). -/

namespace Sys2Proof.Machine

/-- `PC.START(P, t)`, rule R140. -/
def execPcStart (p : ClockId) (t : Time) (s : State) : Host.Outcome State Fault Refusal :=
  .next ((s.setClock p ((s.clock p).start t)).withResult .none)

/-- `PC.STOP(P)`, rule R141. -/
def execPcStop (p : ClockId) (s : State) : Host.Outcome State Fault Refusal :=
  .next ((s.setClock p (s.clock p).stop).withResult .none)

/-- `PC.SYNC(P, target)`, rule R142. -/
def execPcSync (p : ClockId) (target : Duty) (s : State) : Host.Outcome State Fault Refusal :=
  .next ((s.setClock p ((s.clock p).sync target)).withResult .none)

/-- `PC.UPDATE(P, t)`, rule R143: returns `advanced`. -/
def execPcUpdate (p : ClockId) (t : Time) (s : State) : Host.Outcome State Fault Refusal :=
  .next ((s.setClock p ((s.clock p).update t)).withResult (.bit (s.clock p).advances))

/-- `PC.SETPERIOD(P, p)`, rule R144. -/
def execPcSetPeriod (p : ClockId) (period : Time) (s : State) : Host.Outcome State Fault Refusal :=
  .next ((s.setClock p ((s.clock p).setPeriod period)).withResult .none)

/-- `PC.SETDUTY(P, d)`, rule R145. -/
def execPcSetDuty (p : ClockId) (duty : Duty) (s : State) : Host.Outcome State Fault Refusal :=
  .next ((s.setClock p ((s.clock p).setDuty duty)).withResult .none)

/-- `PC.GETSTATE(P)`, rule R137: reads only. -/
def execPcGetState (p : ClockId) (s : State) : Host.Outcome State Fault Refusal :=
  .next (s.withResult (.bit (s.clock p).getState))

/-- `PC.ISRISING(P)`, rule R138: reads only. -/
def execPcIsRising (p : ClockId) (s : State) : Host.Outcome State Fault Refusal :=
  .next (s.withResult (.bit (s.clock p).isRising))

/-- `PC.ISFALLING(P)`, rule R139: reads only. -/
def execPcIsFalling (p : ClockId) (s : State) : Host.Outcome State Fault Refusal :=
  .next (s.withResult (.bit (s.clock p).isFalling))

end Sys2Proof.Machine
end

