-- ==== Sys2Proof/Machine/Curve.lean ====
section
/-! DEFINITION. The three CurveKnob operations (41_curve_knob.md). -/

namespace Sys2Proof.Machine

/-- `CK.UPDATE(C, raw)`, rule R122: QK.UPDATE of the knob inside, nothing else. -/
def execCkUpdate (c : CurveId) (raw : Raw) (s : State) : Host.Outcome State Fault Refusal :=
  .next ((s.setKnob c.knob ((s.knob c.knob).update raw)).withResult .none)

/-- `CK.SETCURVE(C, sel)`, rule R123; `BST.kRate` has no selector (log 11); an operand out of range: log 14. -/
def execCkSetCurve (c : CurveId) (sel : Index) (s : State) : Host.Outcome State Fault Refusal :=
  match c with
  | .clkRate => .next ((s.setClkRate (s.clkMode.kRate.setCurve sel)).withResult .none)
  | .bstRate => .refused .noCurveSelector

/-- `CK.GETVALUE(C)`, rule R124: reads only. -/
def execCkGetValue (c : CurveId) (s : State) : Host.Outcome State Fault Refusal :=
  match c with
  | .clkRate => .next (s.withResult (.value (s.clkMode.kRate.value s.config.tables)))
  | .bstRate => .next (s.withResult (.value (bstRateValue s.config.tables s.bstMode.kRate)))

end Sys2Proof.Machine
end

