-- ==== Sys2Proof/Machine/Knob.lean ====
section
/-! DEFINITION. The six QuantizedKnob operations (40_quantized_knob.md). -/

namespace Sys2Proof.Machine

/-- `QK.UPDATE(K, raw)`, rule R103. -/
def execQkUpdate (k : KnobId) (raw : Raw) (s : State) : Host.Outcome State Fault Refusal :=
  .next ((s.setKnob k ((s.knob k).update raw)).withResult .none)

/-- `QK.GETINDEX(K)`, rule R105: reads only. -/
def execQkGetIndex (k : KnobId) (s : State) : Host.Outcome State Fault Refusal :=
  .next (s.withResult (.index (s.knob k).currentIndex))

/-- `QK.GETRAW(K)`, rule R106: reads only. -/
def execQkGetRaw (k : KnobId) (s : State) : Host.Outcome State Fault Refusal :=
  .next (s.withResult (.raw (s.knob k).lastRaw))

/-- `QK.MAPINDEX(K, a, b)`, rule R107: reads only. -/
def execQkMapIndex (k : KnobId) (a b : Time) (s : State) : Host.Outcome State Fault Refusal :=
  .next (s.withResult (.value ((s.knob k).mapIndex a b)))

/-- `QK.MAPINNERRAW(K, a, b)`, rule R108: reads only. -/
def execQkMapInnerRaw (k : KnobId) (a b : Time) (s : State) : Host.Outcome State Fault Refusal :=
  .next (s.withResult (.value ((s.knob k).mapInnerRaw a b)))

/-- `QK.CONFIG(K, nv, hyst)`, rule R109; an illegal `nv` is outside the hardware (rule R8, log 12). -/
def execQkConfig (k : KnobId) (nv : Buckets) (hyst : Raw) (s : State) : Host.Outcome State Fault Refusal :=
  if h : bucketsLegal nv then .next ((s.setKnob k ((s.knob k).config ⟨nv, h⟩ hyst)).withResult .none)
  else .refused .illegalNumValues

end Sys2Proof.Machine
end

