-- ==== Sys2Proof/Machine/Modes.lean ====
section
/-! DEFINITION. The four mode steps as operations of their own (43_modes.md). A mode step reads and writes only the
state of its own behaviour and returns one output value (rule R160); the output register is FRAME's (log 15). -/

namespace Sys2Proof.Machine

/-- `MODE.CLOCK`, rule R162. -/
def execModeClock (x : Forwarded) (s : State) : Host.Outcome State Fault Refusal :=
  let s' := s.runMode .clock x
  .next (s'.withResult (.level (s'.modeOut .clock)))

/-- `MODE.BURST`, rule R168. -/
def execModeBurst (x : Forwarded) (s : State) : Host.Outcome State Fault Refusal :=
  let s' := s.runMode .burst x
  .next (s'.withResult (.level (s'.modeOut .burst)))

/-- `MODE.DIVIDE`, rule R175. -/
def execModeDivide (x : Forwarded) (s : State) : Host.Outcome State Fault Refusal :=
  let s' := s.runMode .divide x
  .next (s'.withResult (.level (s'.modeOut .divide)))

/-- `MODE.MULTIPLY`, rule R176. -/
def execModeMultiply (x : Forwarded) (s : State) : Host.Outcome State Fault Refusal :=
  let s' := s.runMode .multiply x
  .next (s'.withResult (.level (s'.modeOut .multiply)))

end Sys2Proof.Machine
end

