-- ==== Sys2Proof/Machine/Selector.lean ====
section
/-! DEFINITION. The two top-level operations (44_mode_selector.md). -/

namespace Sys2Proof.Machine

/-- `FRAME(F)`, rule R191. -/
def execFrame (f : Frame) (s : State) : Host.Outcome State Fault Refusal := .next (s.frameStep f)

/-- `RESET`, rule R198. -/
def execReset (s : State) : Host.Outcome State Fault Refusal := .next s.toReset

end Sys2Proof.Machine
end

