-- ==== Sys2Proof/Machine/Dispatch.lean ====
section
/-! DEFINITION. One arm per operation of the opcode table (30_encoding.md rule R87). -/

namespace Sys2Proof.Machine

def exec (i : Instr) (s : State) : Host.Outcome State Fault Refusal :=
  match i with
  | .qkUpdate k raw => Sys2Proof.Machine.execQkUpdate k raw s
  | .qkGetIndex k => Sys2Proof.Machine.execQkGetIndex k s
  | .qkGetRaw k => Sys2Proof.Machine.execQkGetRaw k s
  | .qkMapIndex k a b => Sys2Proof.Machine.execQkMapIndex k a b s
  | .qkMapInnerRaw k a b => Sys2Proof.Machine.execQkMapInnerRaw k a b s
  | .qkConfig k nv hyst => Sys2Proof.Machine.execQkConfig k nv hyst s
  | .ckUpdate c raw => Sys2Proof.Machine.execCkUpdate c raw s
  | .ckSetCurve c sel => Sys2Proof.Machine.execCkSetCurve c sel s
  | .ckGetValue c => Sys2Proof.Machine.execCkGetValue c s
  | .pcStart p t => Sys2Proof.Machine.execPcStart p t s
  | .pcStop p => Sys2Proof.Machine.execPcStop p s
  | .pcSync p target => Sys2Proof.Machine.execPcSync p target s
  | .pcUpdate p t => Sys2Proof.Machine.execPcUpdate p t s
  | .pcSetPeriod p period => Sys2Proof.Machine.execPcSetPeriod p period s
  | .pcSetDuty p duty => Sys2Proof.Machine.execPcSetDuty p duty s
  | .pcGetState p => Sys2Proof.Machine.execPcGetState p s
  | .pcIsRising p => Sys2Proof.Machine.execPcIsRising p s
  | .pcIsFalling p => Sys2Proof.Machine.execPcIsFalling p s
  | .reset => Sys2Proof.Machine.execReset s
  | .frame f => Sys2Proof.Machine.execFrame f s
  | .modeClock x => Sys2Proof.Machine.execModeClock x s
  | .modeBurst x => Sys2Proof.Machine.execModeBurst x s
  | .modeDivide x => Sys2Proof.Machine.execModeDivide x s
  | .modeMultiply x => Sys2Proof.Machine.execModeMultiply x s

end Sys2Proof.Machine
end

