-- ==== Sys2Proof/Machine/Ports.lean ====
section
/-! DEFINITION. The ports (30_encoding.md rules R81, R85), how the core answers each thing presented to it, and the
text notation's statements (rules R89, R90). -/

namespace Sys2Proof.Machine

/-- A clock edge at which nothing is accepted: the core is idle and holds all state (rule R217); the one-cycle pulse
`out_valid` is over (rule R85). -/
def State.idle (s : State) : State := { s with outValid := false }

/-- One rising edge of `clk` (rules R85, R225): reset wins whatever the other ports carry; else a frame is accepted if and only
if `in_valid` = 1 and `in_ready` = 1. -/
def runEdge (p : PortSample) (s : State) : Host.Outcome State Fault Refusal :=
  if p.rst then exec .reset s
  else if p.inValid && s.inReady then exec (.frame p.frame) s
  else .next s.idle

/-- One command word: the operation it decodes to, or a rejection by name (rule R88 (c)). -/
def runWord (w : CmdWord) (s : State) : Host.Outcome State Fault Refusal :=
  match decode w with
  | .ok i => exec i s
  | .error e => .refused (.undecodable e)

/-- What one step does: it takes the oldest thing presented and answers it; with nothing presented the core is idle. -/
def advance (s : State) : Host.Outcome State Fault Refusal :=
  match s.input with
  | [] => .next s.idle
  | .word w :: rest => runWord w { s with input := rest }
  | .edge p :: rest => runEdge p { s with input := rest }

/-- The state with one more thing presented, before all others. -/
def State.present (s : State) (i : Input) : State := { s with input := i :: s.input }

/-! ### Programs in the text notation -/

/-- A statement of rule R89, and the pseudo-operation TRACE of rule R90. -/
inductive Stmt where
  | reset
  | frame (f : Frame)
  | trace (firstNow step : Time) (count : Nat) (modeRaw rateRaw rangeRaw : Raw) (trig : Bool)
deriving DecidableEq, Repr

/-- The frames of a TRACE: `now = (first_now + i*step) mod 2^32` for `i` = 0..`count` - 1 (rule R90). -/
def traceFrames (firstNow step : Time) (count : Nat) (modeRaw rateRaw rangeRaw : Raw) (trig : Bool) : List Frame :=
  (List.range count).map fun i =>
    ⟨BitVec.ofNat _ (firstNow.toNat + i * step.toNat), modeRaw, rateRaw, rangeRaw, trig⟩

/-- The ports at an edge that offers a frame. -/
def frameEdge (f : Frame) : Input := .edge ⟨false, true, f.now, f.modeRaw, f.rateRaw, f.rangeRaw, f.trig⟩

/-- The ports at a reset edge: one rising edge of `clk` with `rst` = 1 (rule R89). -/
def resetEdge : Input := .edge ⟨true, false, 0#_, 0#_, 0#_, 0#_, false⟩

/-- What a statement presents to the core, in order (rule R89). -/
def Stmt.inputs : Stmt → List Input
  | .reset => [resetEdge]
  | .frame f => [frameEdge f]
  | .trace t d n m r g b => (traceFrames t d n m r g b).map frameEdge

/-- A state to which a program is presented (rule R89). -/
def State.withProgram (s : State) (p : List Stmt) : State := { s with input := p.flatMap Stmt.inputs }

end Sys2Proof.Machine
end

