-- ==== Sys2Proof/Machine/Step.lean ====
section
/-! DEFINITION. One step of the core, and the place it takes its next operation from. -/

namespace Sys2Proof.Machine

/-- One step: the oldest thing presented is answered (`advance`). -/
def step (s : State) : Host.Outcome State Fault Refusal := advance s

/-- The state in which the very next step runs the command word whose lowest `nbits` bits are those of `w` (log 5). -/
def State.withFetchWord (s : State) (nbits w : Nat) : State := s.present (.word (tableWord nbits w))

end Sys2Proof.Machine
end

