-- ==== Sys2Proof/Safety.lean ====
section
/-! DEFINITION. What the claims about runs are stated in: the invariants of the state, the legality of a configuration
held in a state, and runs of frames. -/

namespace Sys2Proof.Machine

/-- The invariant of a QuantizedKnob (10_state.md rule R22): the index in range, the window always that of the index, and not
empty. The bucket count is legal by its type (rule R8). -/
def QuantizedKnob.wf (q : QuantizedKnob) : Bool :=
  decide (q.currentIndex.toNat < q.numValues.toNat) &&
  q.lowerBound == windowLower q.numValues q.hysteresis q.currentIndex &&
  q.upperBound == windowUpper q.numValues q.hysteresis q.currentIndex &&
  decide (q.lowerBound.toNat < q.upperBound.toNat)

/-- The invariant of a PhaseClock (rule R26 (a), (c)): while Stopped the phase is 0; the duty is at most `PHASE_MAX`. -/
def PhaseClock.wf (p : PhaseClock) : Bool :=
  (p.running || p.phase == 0#_) && decide (p.duty.toNat ≤ phaseMax)

/-- The invariant of a state: every knob (rule R22), every clock (rule R26), the gate counter (rule R170), the output level
(rule R84) and the idle handshake (rule R85). The configuration is legal by its type (rule R8). -/
def State.wf (s : State) : Bool :=
  s.kMode.wf && s.clkMode.kRate.k.wf && s.clkMode.kRange.wf && s.clkMode.clk.wf &&
  s.bstMode.kRate.wf && s.bstMode.kRepeat.wf && s.bstMode.clk.wf && decide (s.bstMode.gates.toNat ≤ 254) &&
  s.divMode.kRate.wf && s.divMode.kRange.wf && s.divMode.clk.wf &&
  s.mulMode.kRate.wf && s.mulMode.kRange.wf && s.mulMode.clk.wf &&
  (s.outLevel == outLow || s.outLevel == outMax) && s.inReady

/-- A state whose knobs have the sizes of its configuration (rules R5, R7), which are those of the tables by the configuration's
type (rule R8): every table read is then in bounds (rule R66). -/
def State.sized (s : State) : Bool :=
  s.kMode.numValues == modeBuckets && s.clkMode.kRate.k.numValues == s.config.clkRateNv &&
  s.clkMode.kRate.nCurves == s.config.clkNCurves && s.clkMode.kRange.numValues == s.config.clkNCurves &&
  s.bstMode.kRate.numValues == bstRateBuckets && s.bstMode.kRepeat.numValues == s.config.bstNRep &&
  s.divMode.kRate.numValues == dmRateBuckets && s.divMode.kRange.numValues == s.config.dmNTables &&
  s.mulMode.kRate.numValues == dmRateBuckets && s.mulMode.kRange.numValues == s.config.dmNTables

/-- A run of operations, each after the one before it, stopping at the first that gives no next state (rule R10). -/
def execAll : List Instr → State → Host.Outcome State Fault Refusal
  | [], s => .next s
  | i :: is, s =>
    match exec i s with
    | .next s' => execAll is s'
    | .fault r => .fault r
    | .refused r => .refused r

/-- The behaviour that FRAME selects for a frame in a state (rule R86). -/
def State.selected (s : State) (f : Frame) : ModeId := modeOfIndex (s.kMode.update f.modeRaw).currentIndex

/-- Whether no frame of a run of frames selects behaviour `m`. -/
def neverSelects (m : ModeId) : List Frame → State → Bool
  | [], _ => true
  | f :: fs, s => s.selected f != m && neverSelects m fs (s.frameStep f)

/-- Whether no frame of a list shows a rising edge of the trigger, `prev` being the level before the first (rule R208). -/
def noTrigRise (prev : Bool) : List Forwarded → Bool
  | [] => true
  | x :: xs => !trigRise x.trig prev && noTrigRise x.trig xs

/-! ### What a step leaves unchanged -/

/-- Every element that is no knob, no clock and not the curve selector is the same in both states; `result` is left out,
every operation writing it. -/
def sameScalars (s t : State) : Prop :=
  t.clkMode.prevTrig = s.clkMode.prevTrig ∧ t.bstMode.gates = s.bstMode.gates ∧
  t.bstMode.prevTrig = s.bstMode.prevTrig ∧ t.divMode.prevIn = s.divMode.prevIn ∧
  t.divMode.lastInRise = s.divMode.lastInRise ∧ t.mulMode.prevIn = s.mulMode.prevIn ∧
  t.mulMode.lastInRise = s.mulMode.lastInRise ∧ t.outLevel = s.outLevel ∧ t.inReady = s.inReady ∧
  t.outValid = s.outValid ∧ t.clkMode.kRate.nCurves = s.clkMode.kRate.nCurves ∧ t.config = s.config ∧ t.input = s.input

/-- Nothing but knob `k` (and `result`) differs. -/
def sameExceptKnob (k : KnobId) (s t : State) : Prop :=
  (∀ j, j ≠ k → t.knob j = s.knob j) ∧ (∀ p, t.clock p = s.clock p) ∧
  t.clkMode.kRate.curveSel.toNat = s.clkMode.kRate.curveSel.toNat ∧ sameScalars s t

/-- Nothing but clock `p` (and `result`) differs. -/
def sameExceptClock (p : ClockId) (s t : State) : Prop :=
  (∀ k, t.knob k = s.knob k) ∧ (∀ j, j ≠ p → t.clock j = s.clock j) ∧
  t.clkMode.kRate.curveSel.toNat = s.clkMode.kRate.curveSel.toNat ∧ sameScalars s t

/-- Every state element of behaviour `m` is the same in both states (rule R195). -/
def sameBehaviour (m : ModeId) (s t : State) : Prop :=
  match m with
  | .clock => t.clkMode = s.clkMode
  | .burst => t.bstMode = s.bstMode
  | .divide => t.divMode = s.divMode
  | .multiply => t.mulMode = s.mulMode

/-- The mode step of a behaviour as an operation (rule R86). -/
def modeInstr : ModeId → Forwarded → Instr
  | .clock => .modeClock
  | .burst => .modeBurst
  | .divide => .modeDivide
  | .multiply => .modeMultiply

/-- The indices that knob `k` reports after each reading of a sweep. -/
def indexTrace (k : KnobId) : List Raw → State → List Nat
  | [], _ => []
  | raw :: raws, s =>
    match exec (.qkUpdate k raw) s with
    | .next t => (t.knob k).currentIndex.toNat :: indexTrace k raws t
    | .fault _ => []
    | .refused _ => []

/-! ### A change of the time origin -/

/-- A clock whose timestamps are moved by `d`. -/
def PhaseClock.shiftTime (d : Time) (p : PhaseClock) : PhaseClock :=
  { p with lastRisingEdgeTime := p.lastRisingEdgeTime + d, lastObservedTime := p.lastObservedTime + d }

/-- A state in which every stored timestamp (rules R25, R30) is moved by `d`. -/
def State.shiftTime (d : Time) (s : State) : State :=
  { s with
    clkMode := { s.clkMode with clk := s.clkMode.clk.shiftTime d }
    bstMode := { s.bstMode with clk := s.bstMode.clk.shiftTime d }
    divMode := { s.divMode with clk := s.divMode.clk.shiftTime d, lastInRise := s.divMode.lastInRise + d }
    mulMode := { s.mulMode with clk := s.mulMode.clk.shiftTime d, lastInRise := s.mulMode.lastInRise + d } }

end Sys2Proof.Machine
end

