-- ==== Sys2Proof/Certificates/Slice0/Obligations.lean ====
section
/-! DEFINITION. The statements for the provers. Each docstring names the rule of spec/ it comes from. -/

open Sys2Proof Sys2Proof.Machine

/-! ### Encoding -/

/-- Decoding an encoded operation gives it back, for every well-formed operation and every operand. The opids are rule R87's;
where the operands stand is the model's choice (log 6, log 7). -/
def Obligations.DecodeEncodeRoundTrip : Prop :=
  ∀ i : Instr, i.wf = true → decode (encode i) = .ok i

/-- Every word that decodes is the one encoding of a well-formed operation, so each word has one meaning. The layout is the
model's choice (log 6, log 7). -/
def Obligations.DecodedWordIsItsEncoding : Prop :=
  ∀ (w : CmdWord) (i : Instr), decode w = .ok i → encode i = w ∧ i.wf = true

/-- Rule R82: the numeric value of a frame word, the five slices, and that the word and the fields determine each other. -/
def Obligations.FrameWordLayout : Prop :=
  (∀ f : Frame, (frameToWord f).toNat =
      f.now.toNat * 2 ^ 31 + f.modeRaw.toNat * 2 ^ 21 + f.rateRaw.toNat * 2 ^ 11 + f.rangeRaw.toNat * 2 +
        f.trig.toNat ∧
    frameOfWord (frameToWord f) = f) ∧
  (∀ w : FrameWord, frameToWord (frameOfWord w) = w ∧
    (frameOfWord w).now = w.extractLsb 62 31 ∧ (frameOfWord w).modeRaw = w.extractLsb 30 21 ∧
    (frameOfWord w).rateRaw = w.extractLsb 20 11 ∧ (frameOfWord w).rangeRaw = w.extractLsb 10 1 ∧
    (frameOfWord w).trig = w.getLsbD 0)

/-- Rule R88 (a): every value of the frame word is a legal frame, and (c): the eight unassigned opids are rejected, whatever
stands in the word's other bits. The place of the opid and of `F` in the word is the model's choice (log 6). -/
def Obligations.EveryFrameLegalAndUnassignedOpidsRejected : Prop :=
  (∀ F : FrameWord, decode (frameCmdWord 0x1B#8 F) = .ok (.frame (frameOfWord F))) ∧
  (∀ (w : CmdWord) (n : Nat), n ∈ [0x06, 0x07, 0x0B, 0x0C, 0x0D, 0x0E, 0x0F, 0x19] → (opField w).toNat = n →
    decode w = .error (.unassignedOpid n))

/-- Rule R87's opids, for seven rows of the opcode table: the row's word decodes to that operation, its operands zero (log 6,
log 7); the unassigned opid 0x19 decodes to nothing. -/
def Obligations.TableWordsDecodeToTheirOperations : Prop :=
  decodeTableWord 8 0x00 = some (.qkUpdate .msMode 0#10) ∧
  decodeTableWord 8 0x05 = some (.qkConfig .msMode 1#5 0#10) ∧
  decodeTableWord 8 0x0A = some (.ckGetValue .clkRate) ∧
  decodeTableWord 8 0x13 = some (.pcUpdate .clk 0#32) ∧
  decodeTableWord 8 0x1A = some .reset ∧
  decodeTableWord 8 0x1B = some (.frame ⟨0#32, 0#10, 0#10, 0#10, false⟩) ∧
  decodeTableWord 8 0x1F = some (.modeMultiply ⟨0#32, 0#10, 0#10, false⟩) ∧
  decodeTableWord 8 0x19 = none

/-! ### Steps -/

/-- A step whose next input is a command word that decodes to `i` runs `i` on the state from which that input is taken (the
input list is the model's own: log 5). -/
def Obligations.StepRunsDecodedInstruction : Prop :=
  ∀ (s : State) (w : CmdWord) (rest : List Input) (i : Instr), s.input = .word w :: rest → decode w = .ok i →
    step s = exec i { s with input := rest }

/-- The word placed by `withFetchWord` is what the very next step runs (log 5, log 6). -/
def Obligations.FetchedTableWordRuns : Prop :=
  ∀ (s : State) (nbits w : Nat) (i : Instr), decodeTableWord nbits w = some i →
    step (s.withFetchWord nbits w) = exec i s

/-- Rules R85 and R225 at one rising edge of `clk`: reset wins; else a frame is accepted if and only if `in_valid` = 1 and
`in_ready` = 1, and it is the frame at the ports; else nothing but the `out_valid` pulse changes (log 13). -/
def Obligations.ClockEdgeAcceptsOrResets : Prop :=
  ∀ (s : State) (p : PortSample) (rest : List Input), s.input = .edge p :: rest →
    (p.rst = true → step s = exec .reset { s with input := rest }) ∧
    (p.rst = false → p.inValid = true → s.inReady = true →
      step s = exec (.frame ⟨p.inTime, p.inMode, p.inRate, p.inRange, p.inTrig⟩) { s with input := rest }) ∧
    (p.rst = false → (p.inValid = false ∨ s.inReady = false) →
      step s = .next { s with input := rest, outValid := false })

/-- With nothing presented the core holds all state (rule R217); that the model then steps at all is its choice (log 5). -/
def Obligations.IdleHoldsState : Prop :=
  ∀ s : State, s.input = [] → step s = .next { s with outValid := false }

/-- Rule R205: every operation is total. The model's refusals are two ill-formed terms (log 11, log 12), which no word
decodes to. -/
def Obligations.EveryOperationCompletes : Prop :=
  (∀ (i : Instr) (s : State), i.wf = true → ∃ t, exec i s = .next t) ∧
  (∀ (w : CmdWord) (i : Instr) (s : State), decode w = .ok i → ∃ t, exec i s = .next t)

/-- The two forms the model stops on, by name: an illegal `nv` (rule R8) and a knob without a selector (rule R123). That it
answers a refusal is the model's choice (log 11, log 12). -/
def Obligations.IllFormedOperationsAreRefused : Prop :=
  (∀ (k : KnobId) (nv : Buckets) (h : Raw) (s : State), nv = 0#5 ∨ 16 < nv.toNat →
    exec (.qkConfig k nv h) s = .refused .illegalNumValues) ∧
  (∀ (sel : Index) (s : State), exec (.ckSetCurve .bstRate sel) s = .refused .noCurveSelector)

/-! ### QuantizedKnob -/

/-- Rule R103, QK.UPDATE: inside the window only `lastRaw` changes; outside it the index is the reading's bucket and the
window is rewritten; nothing else changes. -/
def Obligations.QkUpdateRecomputesOnlyOutsideWindow : Prop :=
  ∀ (s : State) (k : KnobId) (raw : Raw), (s.knob k).wf = true →
    ∃ t, exec (.qkUpdate k raw) s = .next t ∧ t.result = .none ∧ sameExceptKnob k s t ∧
      (t.knob k).lastRaw = raw ∧ (t.knob k).numValues = (s.knob k).numValues ∧
      (t.knob k).hysteresis = (s.knob k).hysteresis ∧
      (((s.knob k).lowerBound ≤ raw ∧ raw ≤ (s.knob k).upperBound) →
        (t.knob k).currentIndex = (s.knob k).currentIndex ∧ (t.knob k).lowerBound = (s.knob k).lowerBound ∧
        (t.knob k).upperBound = (s.knob k).upperBound) ∧
      ((raw < (s.knob k).lowerBound ∨ (s.knob k).upperBound < raw) →
        (t.knob k).currentIndex.toNat =
          min (raw.toNat / (1024 / (s.knob k).numValues.toNat)) ((s.knob k).numValues.toNat - 1) ∧
        ((t.knob k).lowerBound.toNat : Int) =
          max (((t.knob k).currentIndex.toNat * (1024 / (s.knob k).numValues.toNat) : Nat) -
            ((s.knob k).hysteresis.toNat : Int)) 0 ∧
        (t.knob k).upperBound.toNat =
          min ((t.knob k).currentIndex.toNat * (1024 / (s.knob k).numValues.toNat) +
            1024 / (s.knob k).numValues.toNat + (s.knob k).hysteresis.toNat) 1023)

/-- Rule R105, QK.GETINDEX: returns the index, which is below the bucket count, and writes nothing; the rule's example. -/
def Obligations.QkGetIndexReadsIndex : Prop :=
  (∀ (s : State) (k : KnobId),
    exec (.qkGetIndex k) s = .next { s with result := .index (s.knob k).currentIndex } ∧
    ((s.knob k).wf = true → (s.knob k).currentIndex.toNat < (s.knob k).numValues.toNat)) ∧
  (∀ (s : State) (k : KnobId), s.knob k = ⟨modeBuckets, 5#10, 0#4, (s.knob k).lastRaw, 0#10, 261#10⟩ →
    ∃ t, execAll [.qkUpdate k 262#10, .qkGetIndex k] s = .next t ∧ t.result = .index 1#4)

/-- Rule R106, QK.GETRAW: returns `lastRaw` and writes nothing; 0 after reset; the rule's example. -/
def Obligations.QkGetRawReadsLastReading : Prop :=
  (∀ (s : State) (k : KnobId), exec (.qkGetRaw k) s = .next { s with result := .raw (s.knob k).lastRaw }) ∧
  (∀ (s : State) (k : KnobId), ∃ t, execAll [.reset, .qkGetRaw k] s = .next t ∧ t.result = .raw 0#10) ∧
  (∀ (s : State) (k : KnobId), ∃ t, execAll [.qkUpdate k 262#10, .qkGetRaw k] s = .next t ∧ t.result = .raw 262#10)

/-- Rule R107, QK.MAPINDEX: the projection of the index, rounded toward zero, between its ends, and the rule's corner
cases. -/
def Obligations.QkMapIndexProjectsIndex : Prop :=
  ∀ (s : State) (k : KnobId) (a b : Time), (s.knob k).wf = true →
    ∃ v : Time, exec (.qkMapIndex k a b) s = .next { s with result := .value v } ∧
      (v.toNat : Int) = a.toNat +
        Int.tdiv ((s.knob k).currentIndex.toNat * ((b.toNat : Int) - a.toNat)) (s.knob k).numValues.toNat ∧
      min a.toNat b.toNat ≤ v.toNat ∧ v.toNat ≤ max a.toNat b.toNat ∧
      ((s.knob k).currentIndex = 0#4 → v = a) ∧ (a = b → v = a) ∧ (v = b → a = b) ∧
      ((s.knob k).numValues.toNat = 1 → v = a)

/-- Rule R108, QK.MAPINNERRAW: the projection of the reading, clamped into the window, onto `[a, b]`; exact at both ends
of the window; between `a` and `b`. -/
def Obligations.QkMapInnerRawProjectsReading : Prop :=
  ∀ (s : State) (k : KnobId) (a b : Time), (s.knob k).wf = true →
    ∃ v : Time, exec (.qkMapInnerRaw k a b) s = .next { s with result := .value v } ∧
      (v.toNat : Int) = a.toNat +
        Int.tdiv
          (((min (max (s.knob k).lastRaw.toNat (s.knob k).lowerBound.toNat) (s.knob k).upperBound.toNat : Nat) -
              ((s.knob k).lowerBound.toNat : Int)) * ((b.toNat : Int) - a.toNat))
          ((s.knob k).upperBound.toNat - (s.knob k).lowerBound.toNat) ∧
      min a.toNat b.toNat ≤ v.toNat ∧ v.toNat ≤ max a.toNat b.toNat ∧
      ((s.knob k).lastRaw ≤ (s.knob k).lowerBound → v = a) ∧ ((s.knob k).upperBound ≤ (s.knob k).lastRaw → v = b) ∧
      (a = b → v = a)

/-- Rules R108 and R126 (the spec's own inference): in one window the projected value is monotonic in the reading, rising
when `b > a`, falling when `b < a`. -/
def Obligations.InterpolationIsMonotonicInWindow : Prop :=
  ∀ (s t : State) (k : KnobId) (a b v w : Time), (s.knob k).wf = true →
    t.knob k = { s.knob k with lastRaw := (t.knob k).lastRaw } → (s.knob k).lastRaw ≤ (t.knob k).lastRaw →
    exec (.qkMapInnerRaw k a b) s = .next { s with result := .value v } →
    exec (.qkMapInnerRaw k a b) t = .next { t with result := .value w } →
    (a ≤ b → v ≤ w) ∧ (b ≤ a → w ≤ v)

/-- Rule R109, QK.CONFIG with a legal `nv`: the two parameters are written, the index is clamped, the window is that of
the new index, step and margin; `lastRaw` and everything else stay. -/
def Obligations.QkConfigRederivesWindow : Prop :=
  ∀ (s : State) (k : KnobId) (nv : Buckets) (h : Raw), 1 ≤ nv.toNat → nv.toNat ≤ 16 →
    ∃ t, exec (.qkConfig k nv h) s = .next t ∧ t.result = .none ∧ sameExceptKnob k s t ∧
      (t.knob k).numValues.bits = nv ∧ (t.knob k).hysteresis = h ∧ (t.knob k).lastRaw = (s.knob k).lastRaw ∧
      (t.knob k).currentIndex.toNat = min (s.knob k).currentIndex.toNat (nv.toNat - 1) ∧
      ((t.knob k).lowerBound.toNat : Int) =
        max (((t.knob k).currentIndex.toNat * (1024 / nv.toNat) : Nat) - (h.toNat : Int)) 0 ∧
      (t.knob k).upperBound.toNat =
        min ((t.knob k).currentIndex.toNat * (1024 / nv.toNat) + 1024 / nv.toNat + h.toNat) 1023

/-- Rule R104, the spec's own inference: in every legal configuration every window is at least 63 wide, and 63 is reached;
with one bucket the window is `[0, 1023]`. -/
def Obligations.WindowsAreAtLeast63Wide : Prop :=
  (∀ (n : BucketCount) (h : Raw) (i : Index), i.toNat < n.toNat →
    (windowLower n h i).toNat + 63 ≤ (windowUpper n h i).toNat) ∧
  (∀ n : BucketCount, n.toNat = 16 → windowLower n 0#10 15#4 = 960#10 ∧ windowUpper n 0#10 15#4 = 1023#10) ∧
  (∀ (n : BucketCount) (h : Raw), n.toNat = 1 → windowLower n h 0#4 = 0#10 ∧ windowUpper n h 0#4 = 1023#10)

/-- From reset, a rising sweep of readings gives a non-decreasing sequence of indices, for every legal bucket count. For a margin
of 0..50 this is rule R111 (a), which the spec derives; for the margins above 50 it is the model's own consequence of rule R103. -/
def Obligations.RisingSweepNeverLowersIndex : Prop :=
  ∀ (s : State) (k : KnobId) (raws : List Raw),
    s.knob k = QuantizedKnob.atReset (s.knob k).numValues (s.knob k).hysteresis → raws.Pairwise (· ≤ ·) →
    (indexTrace k raws s).Pairwise (· ≤ ·) ∧ (indexTrace k raws s).length = raws.length

/-- Rule R111 (c), (d), the spec's own inference: a reading at most the margin beyond either end of the bucket leaves the
index; the index rises only on a reading at least `i*step + step + h + 1` and falls only on one at most `i*step - h - 1`. -/
def Obligations.HysteresisKeepsIndexStable : Prop :=
  ∀ (s : State) (k : KnobId) (raw : Raw), (s.knob k).wf = true →
    ∃ t, exec (.qkUpdate k raw) s = .next t ∧
      (((s.knob k).currentIndex.toNat * (1024 / (s.knob k).numValues.toNat) ≤
          raw.toNat + (s.knob k).hysteresis.toNat ∧
        raw.toNat ≤ (s.knob k).currentIndex.toNat * (1024 / (s.knob k).numValues.toNat) +
          1024 / (s.knob k).numValues.toNat - 1 + (s.knob k).hysteresis.toNat) →
        (t.knob k).currentIndex = (s.knob k).currentIndex) ∧
      ((s.knob k).currentIndex < (t.knob k).currentIndex →
        (s.knob k).currentIndex.toNat * (1024 / (s.knob k).numValues.toNat) +
          1024 / (s.knob k).numValues.toNat + (s.knob k).hysteresis.toNat + 1 ≤ raw.toNat) ∧
      ((t.knob k).currentIndex < (s.knob k).currentIndex →
        raw.toNat + (s.knob k).hysteresis.toNat + 1 ≤
          (s.knob k).currentIndex.toNat * (1024 / (s.knob k).numValues.toNat))

/-! ### CurveKnob -/

/-- Rule R122, CK.UPDATE: exactly QK.UPDATE of the knob inside; the active curve is not changed. -/
def Obligations.CkUpdateIsQkUpdateOfInnerKnob : Prop :=
  ∀ (s : State) (c : CurveId) (raw : Raw),
    ∃ t, exec (.ckUpdate c raw) s = .next t ∧ exec (.qkUpdate c.knob raw) s = .next t ∧
      sameExceptKnob c.knob s t ∧ (t.knob c.knob).lastRaw = raw

/-- Rule R123, CK.SETCURVE on `CLK.kRate`, the one CurveKnob with a selector, for every selector of the rule's range
0..`CLK_NCURVES`-1: only the selector changes, no knob state, and the next CK.GETVALUE interpolates the selected row at the same
position. -/
def Obligations.CkSetCurveSwapsOnlyTheCurve : Prop :=
  ∀ (s : State) (sel : Index), sel.toNat < s.clkMode.kRate.nCurves.toNat →
    ∃ t, exec (.ckSetCurve .clkRate sel) s = .next t ∧ t.clkMode.kRate.curveSel.toNat = sel.toNat ∧
      t.result = .none ∧ (∀ k, t.knob k = s.knob k) ∧ (∀ p, t.clock p = s.clock p) ∧ sameScalars s t ∧
      ∀ (row : List Time) (a b : Time),
        s.config.tables.clkCurve[sel.toNat]? = some row → row[s.clkMode.kRate.k.currentIndex.toNat]? = some a →
        row[s.clkMode.kRate.k.currentIndex.toNat + 1]? = some b →
        ∃ u v, exec (.ckGetValue .clkRate) t = .next { t with result := .value v } ∧
          exec (.qkMapInnerRaw .clkRate a b) s = .next u ∧ u.result = .value v

/-- Operands outside the range that their rule gives them (the model's choices, log 3 and log 14). A CK.SETCURVE with a selector
of `CLK_NCURVES` or more completes, leaves some selector of the range and changes nothing else. A PC.SYNC with a target above
65536 completes as with 65536. -/
def Obligations.OperandsOutOfRangeStillComplete : Prop :=
  (∀ (s : State) (sel : Index), s.clkMode.kRate.nCurves.toNat ≤ sel.toNat →
    ∃ t, exec (.ckSetCurve .clkRate sel) s = .next t ∧
      t.clkMode.kRate.curveSel.toNat < s.clkMode.kRate.nCurves.toNat ∧
      t.result = .none ∧ (∀ k, t.knob k = s.knob k) ∧ (∀ p, t.clock p = s.clock p) ∧ sameScalars s t) ∧
  (∀ (s : State) (p : ClockId) (target : Duty), 65536 < target.toNat →
    ∃ t, exec (.pcSync p target) s = .next t ∧ exec (.pcSync p 65536#17) s = .next t)

/-- Rule R124, CK.GETVALUE: reads only; the interpolation between the breakpoints `i` and `i + 1` of the active curve. -/
def Obligations.CkGetValueInterpolatesBreakpoints : Prop :=
  ∀ (s : State) (c : CurveId), (s.knob c.knob).wf = true →
    ∃ v : Time, exec (.ckGetValue c) s = .next { s with result := .value v } ∧
      ∀ a b : Time,
        (match c with
          | .clkRate => ∃ row, s.config.tables.clkCurve[s.clkMode.kRate.curveSel.toNat]? = some row ∧
              row[s.clkMode.kRate.k.currentIndex.toNat]? = some a ∧
              row[s.clkMode.kRate.k.currentIndex.toNat + 1]? = some b
          | .bstRate => s.config.tables.bstCurve[s.bstMode.kRate.currentIndex.toNat]? = some a ∧
              s.config.tables.bstCurve[s.bstMode.kRate.currentIndex.toNat + 1]? = some b) →
        (v.toNat : Int) = a.toNat +
          Int.tdiv
            (((min (max (s.knob c.knob).lastRaw.toNat (s.knob c.knob).lowerBound.toNat)
                (s.knob c.knob).upperBound.toNat : Nat) - ((s.knob c.knob).lowerBound.toNat : Int)) *
              ((b.toNat : Int) - a.toNat))
            ((s.knob c.knob).upperBound.toNat - (s.knob c.knob).lowerBound.toNat) ∧
        min a.toNat b.toNat ≤ v.toNat ∧ v.toNat ≤ max a.toNat b.toNat

/-- Rule R125, the spec's own inference: a curve `[A, B]` of a knob with one bucket has value `A` at reading 0, `B` at
reading 1023, and between them is monotonic in the direction of `B - A`; with the reference curve, the rule's five values. -/
def Obligations.TwoBreakpointCurveRunsFromAToB : Prop :=
  ∀ (s : State) (a b : Time), s.bstMode.kRate.wf = true → s.bstMode.kRate.numValues.toNat = 1 →
    s.config.tables.bstCurve = [a, b] →
    ∃ value : Raw → Time,
      (∀ raw, ∃ t, execAll [.ckUpdate .bstRate raw, .ckGetValue .bstRate] s = .next t ∧
        t.result = .value (value raw)) ∧
      value 0#10 = a ∧ value 1023#10 = b ∧
      (a ≤ b → ∀ x y : Raw, x ≤ y → value x ≤ value y) ∧ (b ≤ a → ∀ x y : Raw, x ≤ y → value y ≤ value x) ∧
      (a = 500000#32 → b = 10000#32 →
        value 1#10 = 499522#32 ∧ value 512#10 = 254761#32 ∧ value 1022#10 = 10479#32)

/-! ### PhaseClock -/

/-- Rule R137, PC.GETSTATE: `running` and `phase < duty`; reads only; duty 0 gives false, duty 65536 gives true whenever
Running; the rule's example. -/
def Obligations.PcGetStateIsRunningBelowDuty : Prop :=
  ∀ (s : State) (p : ClockId),
    ∃ b : Bool, exec (.pcGetState p) s = .next { s with result := .bit b } ∧
      (b = true ↔ (s.clock p).running = true ∧ (s.clock p).phase.toNat < (s.clock p).duty.toNat) ∧
      ((s.clock p).duty = 0#17 → b = false) ∧
      ((s.clock p).duty = 65536#17 → b = (s.clock p).running) ∧
      ((s.clock p).running = true → (s.clock p).duty = 32768#17 →
        ((s.clock p).phase = 19660#16 → b = true) ∧ ((s.clock p).phase = 32768#16 → b = false))

/-- Rules R138 and R139, PC.ISRISING and PC.ISFALLING: the stored previous state against the state that PC.GETSTATE returns;
read only; the rules' examples. -/
def Obligations.PcEdgePredicatesComparePreviousState : Prop :=
  ∀ (s : State) (p : ClockId),
    ∃ b r f : Bool, exec (.pcGetState p) s = .next { s with result := .bit b } ∧
      exec (.pcIsRising p) s = .next { s with result := .bit r } ∧
      exec (.pcIsFalling p) s = .next { s with result := .bit f } ∧
      (r = true ↔ (s.clock p).previousState = false ∧ b = true) ∧
      (f = true ↔ (s.clock p).previousState = true ∧ b = false) ∧
      ((s.clock p).running = true → (s.clock p).duty = 32768#17 →
        ((s.clock p).previousState = false → (s.clock p).phase = 13107#16 → r = true) ∧
        ((s.clock p).previousState = true → (s.clock p).phase = 39321#16 → f = true))

/-- Rule R140, PC.START: Running, phase 0, both timestamps the operand; nothing else changes; the state is true at once when
`duty > 0`, and PC.ISRISING with it when the stale previous state is 0. -/
def Obligations.PcStartAnchorsPhaseZero : Prop :=
  ∀ (s : State) (p : ClockId) (t : Time),
    ∃ u, exec (.pcStart p t) s = .next u ∧ u.result = .none ∧ sameExceptClock p s u ∧
      u.clock p = { s.clock p with
        running := true, phase := 0#16, lastRisingEdgeTime := t, lastObservedTime := t } ∧
      (0 < (s.clock p).duty.toNat →
        (∃ v, exec (.pcGetState p) u = .next v ∧ v.result = .bit true) ∧
        ((s.clock p).previousState = false → ∃ v, exec (.pcIsRising p) u = .next v ∧ v.result = .bit true))

/-- Rule R141, PC.STOP: Stopped with phase 0; nothing else changes; the state is false afterwards and PC.ISFALLING is the
stale previous state. -/
def Obligations.PcStopForcesPhaseZero : Prop :=
  ∀ (s : State) (p : ClockId),
    ∃ u, exec (.pcStop p) s = .next u ∧ u.result = .none ∧ sameExceptClock p s u ∧
      u.clock p = { s.clock p with running := false, phase := 0#16 } ∧
      (∃ v, exec (.pcGetState p) u = .next v ∧ v.result = .bit false) ∧
      (∃ v, exec (.pcIsFalling p) u = .next v ∧ v.result = .bit (s.clock p).previousState)

/-- Rule R142, PC.SYNC, for every target of the rule's range 0..65536: a no-op on a Stopped clock; on a Running one the phase is
the clamped target and the anchor is placed by inverting the phase-time mapping; with period 0 the anchor is the last observed
time. -/
def Obligations.PcSyncPlacesAnchor : Prop :=
  ∀ (s : State) (p : ClockId) (target : Duty), target.toNat ≤ 65536 →
    ∃ u, exec (.pcSync p target) s = .next u ∧ u.result = .none ∧ sameExceptClock p s u ∧
      ((s.clock p).running = false → u.clock p = s.clock p) ∧
      ((s.clock p).running = true →
        u.clock p = { s.clock p with
          phase := (u.clock p).phase, lastRisingEdgeTime := (u.clock p).lastRisingEdgeTime } ∧
        (u.clock p).phase.toNat = min target.toNat 65535 ∧
        ((u.clock p).lastRisingEdgeTime.toNat : Int) =
          ((s.clock p).lastObservedTime.toNat -
            (min target.toNat 65535 * (s.clock p).period.toNat / 65536 : Nat) : Int) % 2 ^ 32 ∧
        ((s.clock p).period = 0#32 → (u.clock p).lastRisingEdgeTime = (s.clock p).lastObservedTime))

/-- Rule R143, PC.UPDATE. On a Stopped clock or with period 0: a total no-op that returns false. Otherwise: returns true;
the previous state is the state before; the phase is the elapsed time since the anchor, modulo the period, rescaled; the
anchor moves to `t` exactly on a rising edge; nothing else changes. -/
def Obligations.PcUpdateRecomputesPhase : Prop :=
  ∀ (s : State) (p : ClockId) (t : Time),
    ((s.clock p).running = false ∨ (s.clock p).period = 0#32 →
      exec (.pcUpdate p t) s = .next { s with result := .bit false }) ∧
    ((s.clock p).running = true → (s.clock p).period ≠ 0#32 →
      ∃ u, exec (.pcUpdate p t) s = .next u ∧ u.result = .bit true ∧ sameExceptClock p s u ∧
        (u.clock p).period = (s.clock p).period ∧ (u.clock p).duty = (s.clock p).duty ∧
        (u.clock p).running = true ∧ (u.clock p).lastObservedTime = t ∧
        ((u.clock p).previousState = true ↔ (s.clock p).phase.toNat < (s.clock p).duty.toNat) ∧
        ((u.clock p).phase.toNat : Int) =
          (((t.toNat : Int) - (s.clock p).lastRisingEdgeTime.toNat) % 2 ^ 32 % (s.clock p).period.toNat) * 65536 /
            (s.clock p).period.toNat ∧
        (u.clock p).lastRisingEdgeTime =
          if (u.clock p).previousState = false ∧ (u.clock p).phase.toNat < (u.clock p).duty.toNat then t
          else (s.clock p).lastRisingEdgeTime)

/-- Rules R144 and R145, PC.SETPERIOD and PC.SETDUTY: each writes its register, the duty saturating at 65536, and nothing
else. -/
def Obligations.PcSettersWriteOneRegister : Prop :=
  (∀ (s : State) (p : ClockId) (period : Time),
    ∃ u, exec (.pcSetPeriod p period) s = .next u ∧ u.result = .none ∧ sameExceptClock p s u ∧
      u.clock p = { s.clock p with period := period }) ∧
  (∀ (s : State) (p : ClockId) (d : Duty),
    ∃ u, exec (.pcSetDuty p d) s = .next u ∧ u.result = .none ∧ sameExceptClock p s u ∧
      u.clock p = { s.clock p with duty := (u.clock p).duty } ∧ (u.clock p).duty.toNat = min d.toNat 65536)

/-- Rule R136: the two mappings, their ranges, that inverting and rescaling never exceeds the phase, and the rule's
example. -/
def Obligations.PhaseMappingRanges : Prop :=
  (∀ e p : Nat, e < p → toPhase e p = e * 65536 / p ∧ toPhase e p ≤ 65535) ∧
  (∀ ph p : Nat, ph ≤ 65535 → toTime ph p = ph * p / 65536 ∧ (0 < p → toTime ph p ≤ p - 1) ∧
    toTime ph 0 = 0 ∧ toPhase (toTime ph p) p ≤ ph) ∧
  toTime 32768 999 = 499 ∧ toPhase 499 999 = 32735

/-- Rule R238, the spec's own inference: after a sync to `tp`, an update at the same timestamp computes a phase at most
`tp` and less than `PHASE_MAX / period + 1` units below it (both sides multiplied by the period). -/
def Obligations.SyncThenUpdateRoundsDownByLessThanBound : Prop :=
  ∀ (s : State) (p : ClockId) (tp : Duty), (s.clock p).running = true → (s.clock p).period ≠ 0#32 →
    tp.toNat ≤ 65535 →
    ∃ u, execAll [.pcSync p tp, .pcUpdate p (s.clock p).lastObservedTime] s = .next u ∧
      (u.clock p).phase.toNat ≤ tp.toNat ∧
      (tp.toNat - (u.clock p).phase.toNat) * (s.clock p).period.toNat < 65536 + (s.clock p).period.toNat

/-- Rule R26 (b): right after an executed update that saw no rising edge, and right after a start, the phase is the
rescaled time since the anchor modulo the period. -/
def Obligations.RunningPhaseMatchesAnchor : Prop :=
  ∀ (s : State) (p : ClockId) (t : Time), (s.clock p).period ≠ 0#32 →
    (∃ u, exec (.pcStart p t) s = .next u ∧
      (u.clock p).phase.toNat = toPhase (((u.clock p).lastObservedTime -
        (u.clock p).lastRisingEdgeTime).toNat % (u.clock p).period.toNat) (u.clock p).period.toNat) ∧
    ((s.clock p).running = true →
      ∃ u r, exec (.pcUpdate p t) s = .next u ∧ exec (.pcIsRising p) u = .next { u with result := .bit r } ∧
        (r = false → (u.clock p).phase.toNat = toPhase (((u.clock p).lastObservedTime -
          (u.clock p).lastRisingEdgeTime).toNat % (u.clock p).period.toNat) (u.clock p).period.toNat) ∧
        (r = true → (u.clock p).lastRisingEdgeTime = t))

/-- Rule R142 corner (a), rule R146, marked derived by the spec: `sync(0)` followed at once by an update at the sync time
gives state true when the duty is above 0. -/
def Obligations.SyncZeroThenUpdateReadsHigh : Prop :=
  ∀ (s : State) (p : ClockId), (s.clock p).running = true → 0 < (s.clock p).duty.toNat →
    ∃ u, execAll [.pcSync p 0#17, .pcUpdate p (s.clock p).lastObservedTime, .pcGetState p] s = .next u ∧
      u.result = .bit true ∧ (u.clock p).phase = 0#16

/-! ### Mode steps -/

/-- Rule R162, MODE.CLOCK: the nine lines of its pseudocode, each a unit operation run by itself, one after the other. -/
def Obligations.ModeClockRunsItsPseudocode : Prop :=
  ∀ (s : State) (x : Forwarded),
    ∃ s1 s2 s4 s6 s7 s8 : State, ∃ (sel : Index) (period : Time) (adv high : Bool),
      exec (.ckUpdate .clkRate x.rateRaw) s = .next s1 ∧
      exec (.qkUpdate .clkRange x.rangeRaw) s1 = .next s2 ∧
      exec (.qkGetIndex .clkRange) s2 = .next { s2 with result := .index sel } ∧
      exec (.ckSetCurve .clkRate sel) s2 = .next s4 ∧
      exec (.ckGetValue .clkRate) s4 = .next { s4 with result := .value period } ∧
      exec (.pcSetPeriod .clk period) s4 = .next s6 ∧
      exec (.pcUpdate .clk x.now) s6 = .next s7 ∧ s7.result = .bit adv ∧
      (x.trig = true ∧ s.clkMode.prevTrig = false → exec (.pcSync .clk 0#17) s7 = .next s8) ∧
      (x.trig = false ∨ s.clkMode.prevTrig = true → s8 = s7) ∧
      exec (.pcGetState .clk) s8 = .next { s8 with result := .bit high } ∧
      exec (.modeClock x) s = .next
        { s8 with
          clkMode := { s8.clkMode with prevTrig := x.trig }
          result := .level (if high then 255#8 else 0#8) }

/-- Rule R168, MODE.BURST: the fifteen lines of its pseudocode in order, the unit operations run by themselves; the repeat
count is the table's entry where the knob's index is inside the table. -/
def Obligations.ModeBurstRunsItsPseudocode : Prop :=
  ∀ (s : State) (x : Forwarded),
    ∃ s1 s2 s3 s4 s9 s14 : State, ∃ (period : Time) (adv falling high : Bool) (count : RepeatCount),
      exec (.ckUpdate .bstRate x.rateRaw) s = .next s1 ∧
      exec (.qkUpdate .bstRepeat x.rangeRaw) s1 = .next s2 ∧
      exec (.ckGetValue .bstRate) s2 = .next { s2 with result := .value period } ∧
      exec (.pcSetPeriod .bst period) s2 = .next s3 ∧
      exec (.pcUpdate .bst x.now) s3 = .next s4 ∧ s4.result = .bit adv ∧
      (x.trig = true ∧ s.bstMode.prevTrig = false →
        ∃ u, exec (.pcStart .bst x.now) s4 = .next u ∧
          s9 = { u with bstMode := { u.bstMode with gates := 0#8 } }) ∧
      (x.trig = false ∨ s.bstMode.prevTrig = true → s9 = s4) ∧
      exec (.pcIsFalling .bst) s9 = .next { s9 with result := .bit falling } ∧
      (∀ c, s.config.tables.bstRepeat[s9.bstMode.kRepeat.currentIndex.toNat]? = some c → count = c) ∧
      (adv = true ∧ falling = true → count.toNat ≤ s9.bstMode.gates.toNat + 1 →
        ∃ u, exec (.pcStop .bst) s9 = .next u ∧ s14 = { u with bstMode := { u.bstMode with gates := 0#8 } }) ∧
      (adv = true ∧ falling = true → s9.bstMode.gates.toNat + 1 < count.toNat →
        s14 = { s9 with bstMode := { s9.bstMode with gates := s9.bstMode.gates + 1#8 } }) ∧
      (adv = false ∨ falling = false → s14 = s9) ∧
      exec (.pcGetState .bst) s14 = .next { s14 with result := .bit high } ∧
      exec (.modeBurst x) s = .next
        { s14 with
          bstMode := { s14.bstMode with prevTrig := x.trig }
          result := .level (if high then 255#8 else 0#8) }

/-- Rule R175, MODE.DIVIDE: the fifteen lines of `DM_STEP` in order, the unit operations run by themselves; on an input
rise the period is rule R177's (the estimate times den, divided by num, modulo 2^32), the ratio being the table's entry
where both knob indices are inside the table. -/
def Obligations.ModeDivideRunsItsPseudocode : Prop :=
  ∀ (s : State) (x : Forwarded),
    ∃ s1 s2 s3 s14 : State, ∃ (adv high : Bool) (q : Ratio),
      exec (.qkUpdate .divRate x.rateRaw) s = .next s1 ∧
      exec (.qkUpdate .divRange x.rangeRaw) s1 = .next s2 ∧
      exec (.pcUpdate .div x.now) s2 = .next s3 ∧ s3.result = .bit adv ∧
      (∀ row r, s.config.tables.divRatio[s3.divMode.kRange.currentIndex.toNat]? = some row →
        row[s3.divMode.kRate.currentIndex.toNat]? = some r → q = r) ∧
      (x.trig = true ∧ s.divMode.prevIn = false →
        ∃ u v, exec (.pcSetPeriod .div (BitVec.ofNat 32
            ((x.now - s.divMode.lastInRise).toNat * q.den.toNat / q.num.toNat))) s3 = .next u ∧
          exec (.pcSync .div 0#17) u = .next v ∧
          s14 = { v with divMode := { v.divMode with lastInRise := x.now } }) ∧
      (x.trig = false ∧ s.divMode.prevIn = true → exec (.pcSync .div s3.divMode.clk.duty) s3 = .next s14) ∧
      (x.trig = s.divMode.prevIn → s14 = s3) ∧
      exec (.pcGetState .div) s14 = .next { s14 with result := .bit high } ∧
      exec (.modeDivide x) s = .next
        { s14 with
          divMode := { s14.divMode with prevIn := x.trig }
          result := .level (if high then 255#8 else 0#8) }

/-- Rule R176, MODE.MULTIPLY: the fifteen lines of `DM_STEP` in order, the unit operations run by themselves; on an input
rise the period is rule R177's (the estimate times num, divided by den, modulo 2^32), the ratio being the table's entry
where both knob indices are inside the table. -/
def Obligations.ModeMultiplyRunsItsPseudocode : Prop :=
  ∀ (s : State) (x : Forwarded),
    ∃ s1 s2 s3 s14 : State, ∃ (adv high : Bool) (q : Ratio),
      exec (.qkUpdate .mulRate x.rateRaw) s = .next s1 ∧
      exec (.qkUpdate .mulRange x.rangeRaw) s1 = .next s2 ∧
      exec (.pcUpdate .mul x.now) s2 = .next s3 ∧ s3.result = .bit adv ∧
      (∀ row r, s.config.tables.mulRatio[s3.mulMode.kRange.currentIndex.toNat]? = some row →
        row[s3.mulMode.kRate.currentIndex.toNat]? = some r → q = r) ∧
      (x.trig = true ∧ s.mulMode.prevIn = false →
        ∃ u v, exec (.pcSetPeriod .mul (BitVec.ofNat 32
            ((x.now - s.mulMode.lastInRise).toNat * q.num.toNat / q.den.toNat))) s3 = .next u ∧
          exec (.pcSync .mul 0#17) u = .next v ∧
          s14 = { v with mulMode := { v.mulMode with lastInRise := x.now } }) ∧
      (x.trig = false ∧ s.mulMode.prevIn = true → exec (.pcSync .mul s3.mulMode.clk.duty) s3 = .next s14) ∧
      (x.trig = s.mulMode.prevIn → s14 = s3) ∧
      exec (.pcGetState .mul) s14 = .next { s14 with result := .bit high } ∧
      exec (.modeMultiply x) s = .next
        { s14 with
          mulMode := { s14.mulMode with prevIn := x.trig }
          result := .level (if high then 255#8 else 0#8) }

/-- Rule R160: a mode step writes only its own behaviour, and what it writes and returns depends on nothing but its operands,
its own behaviour and the constant tables. -/
def Obligations.ModeStepTouchesOnlyItsBehaviour : Prop :=
  ∀ (m : ModeId) (x : Forwarded) (s s' : State), sameBehaviour m s s' → s'.config = s.config →
    ∃ t t', exec (modeInstr m x) s = .next t ∧ exec (modeInstr m x) s' = .next t' ∧
      (∀ j, j ≠ m → sameBehaviour j s t) ∧ t.kMode = s.kMode ∧ t.outLevel = s.outLevel ∧
      t.inReady = s.inReady ∧ t.outValid = s.outValid ∧ t.config = s.config ∧ t.input = s.input ∧
      sameBehaviour m t t' ∧ t'.result = t.result

/-- Rule R162 corner (f), a consequence of the rule's pseudocode: after a trigger rise the output of a ClockMode frame is
255 and the phase 0, the clock Running and its duty above 0. -/
def Obligations.ClockTriggerRiseRestartsHigh : Prop :=
  ∀ (s : State) (x : Forwarded), x.trig = true → s.clkMode.prevTrig = false → s.clkMode.clk.running = true →
    0 < s.clkMode.clk.duty.toNat →
    ∃ t, exec (.modeClock x) s = .next t ∧ t.result = .level 255#8 ∧ t.clkMode.clk.phase = 0#16 ∧
      t.clkMode.clk.lastRisingEdgeTime = t.clkMode.clk.lastObservedTime ∧
      (t.clkMode.clk.period ≠ 0#32 → t.clkMode.clk.lastRisingEdgeTime = x.now)

/-- Rules R175 (e), R176, a consequence of the rules' pseudocode: the frame that sees the input fall reads low and has
phase `duty`, the follower Running and its duty a phase. -/
def Obligations.FollowerReadsLowAtInputFall : Prop :=
  (∀ (s : State) (x : Forwarded), x.trig = false → s.divMode.prevIn = true → s.divMode.clk.running = true →
    s.divMode.clk.duty.toNat < 65536 →
    ∃ t, exec (.modeDivide x) s = .next t ∧ t.result = .level 0#8 ∧
      t.divMode.clk.phase.toNat = s.divMode.clk.duty.toNat ∧ t.divMode.lastInRise = s.divMode.lastInRise) ∧
  (∀ (s : State) (x : Forwarded), x.trig = false → s.mulMode.prevIn = true → s.mulMode.clk.running = true →
    s.mulMode.clk.duty.toNat < 65536 →
    ∃ t, exec (.modeMultiply x) s = .next t ∧ t.result = .level 0#8 ∧
      t.mulMode.clk.phase.toNat = s.mulMode.clk.duty.toNat ∧ t.mulMode.lastInRise = s.mulMode.lastInRise)

/-- Rule R175 corner (c), a consequence of the rule's pseudocode: a follower that is Running with period 0 at phase 0 (as
after reset, rule R228 (e)) keeps its clock and outputs 255 in every frame until the input rises. -/
def Obligations.FollowerReadsHighUntilFirstInputRise : Prop :=
  (∀ (xs : List Forwarded) (s : State), s.divMode.clk.running = true → s.divMode.clk.period = 0#32 →
    s.divMode.clk.phase = 0#16 → 0 < s.divMode.clk.duty.toNat → s.divMode.prevIn = false →
    (∀ x ∈ xs, x.trig = false) →
    ∃ t, execAll (xs.map .modeDivide) s = .next t ∧ t.divMode.clk = s.divMode.clk ∧
      (xs ≠ [] → t.result = .level 255#8)) ∧
  (∀ (xs : List Forwarded) (s : State), s.mulMode.clk.running = true → s.mulMode.clk.period = 0#32 →
    s.mulMode.clk.phase = 0#16 → 0 < s.mulMode.clk.duty.toNat → s.mulMode.prevIn = false →
    (∀ x ∈ xs, x.trig = false) →
    ∃ t, execAll (xs.map .modeMultiply) s = .next t ∧ t.mulMode.clk = s.mulMode.clk ∧
      (xs ≠ [] → t.result = .level 255#8))

/-- Rule R177: the follower period as the rule's formula, its corner cases and its worked example. -/
def Obligations.FollowerPeriodFormula : Prop :=
  (∀ (est : Time) (q : Ratio),
    (followerPeriod true est q).toNat = est.toNat * q.num.toNat / q.den.toNat % 2 ^ 32 ∧
    (followerPeriod false est q).toNat = est.toNat * q.den.toNat / q.num.toNat % 2 ^ 32 ∧
    est.toNat * q.num.toNat < 2 ^ 40 ∧ est.toNat * q.den.toNat < 2 ^ 40) ∧
  (∀ (m : Bool) (q : Ratio), followerPeriod m 0#32 q = 0#32) ∧
  (∀ q : Ratio,
    (q.num = 1#8 → q.den = 2#8 → followerPeriod false 4294967295#32 q = 4294967294#32) ∧
    (q.num = 1#8 → q.den = 4#8 → followerPeriod true 3#32 q = 0#32) ∧
    (q.num = 1#8 → q.den = 3#8 → followerPeriod false 4000#32 q = 12000#32 ∧ followerPeriod true 4000#32 q = 1333#32))

/-- Rules R168 corner (e), R169, marked derived by the spec: an idle BurstMode, its clock Stopped, outputs 0 in every
later frame, with the clock Stopped and the gate count unchanged, until the trigger rises, whatever the timestamps and the
readings. -/
def Obligations.IdleBurstStaysLowUntilTrigger : Prop :=
  ∀ (xs : List Forwarded) (s : State), s.bstMode.clk.running = false →
    noTrigRise s.bstMode.prevTrig xs = true →
    ∃ t, execAll (xs.map .modeBurst) s = .next t ∧ t.bstMode.clk.running = false ∧
      t.bstMode.gates = s.bstMode.gates ∧ (xs ≠ [] → t.result = .level 0#8)

/-! ### FRAME and RESET -/

/-- Rule R191: FRAME quantises the mode reading, runs the mode step that the index selects on the same frame, writes what it
returns to the output register and returns it; the handshake flags aside, it writes nothing else. -/
def Obligations.FrameRunsTheSelectedModeStep : Prop :=
  ∀ (s : State) (f : Frame),
    ∃ (s1 t u : State) (m : ModeId) (out : Level),
      exec (.qkUpdate .msMode f.modeRaw) s = .next s1 ∧
      (s1.kMode.currentIndex = 0#4 → m = .clock) ∧ (s1.kMode.currentIndex = 1#4 → m = .burst) ∧
      (s1.kMode.currentIndex = 2#4 → m = .divide) ∧ (s1.kMode.currentIndex = 3#4 → m = .multiply) ∧
      exec (modeInstr m ⟨f.now, f.rateRaw, f.rangeRaw, f.trig⟩) s1 = .next t ∧ t.result = .level out ∧
      exec (.frame f) s = .next u ∧ u = { t with outLevel := out, outValid := u.outValid, inReady := u.inReady }

/-- The handshake flags, a frame's clock cycles being one step (the model's choice, log 13): after a frame `out_valid` = 1 and
`in_ready` = 1, after a reset `out_valid` = 0 and `in_ready` = 1. -/
def Obligations.HandshakeFlagsAfterFrameAndReset : Prop :=
  ∀ s : State,
    (∀ f, ∃ t, exec (.frame f) s = .next t ∧ t.outValid = true ∧ t.inReady = true) ∧
    (∃ t, exec .reset s = .next t ∧ t.outValid = false ∧ t.inReady = true)

/-- Rule R84: after a frame the output register is 255 when the clock state of the selected behaviour is true and 0 when it
is false, and it is what the frame returned; no operation puts another value into it. -/
def Obligations.FrameOutputIsWidenedClockState : Prop :=
  (∀ (s : State) (f : Frame), ∃ (t : State) (high : Bool), exec (.frame f) s = .next t ∧
    exec (.pcGetState (clockOfMode (s.selected f))) t = .next { t with result := .bit high } ∧
    t.outLevel = (if high then 255#8 else 0#8) ∧ t.result = .level t.outLevel) ∧
  (∀ (i : Instr) (s t : State), exec i s = .next t →
    t.outLevel = s.outLevel ∨ t.outLevel = 255#8 ∨ t.outLevel = 0#8)

/-- Rules R193 and R195 (marked derived by the spec) over a run: frames that never select a behaviour leave every state
element of it exactly as it was. -/
def Obligations.PausedBehaviourIsPreservedOverRuns : Prop :=
  ∀ (m : ModeId) (fs : List Frame) (s : State), neverSelects m fs s = true →
    ∃ t, execAll (fs.map .frame) s = .next t ∧ sameBehaviour m s t

/-- Rule R235, the spec's own inference: the core only subtracts timestamps. Moving every stored timestamp and the frame's
`now` by the same amount modulo 2^32 moves the timestamps of the next state by that amount and changes nothing else, the
output included. -/
def Obligations.FrameCommutesWithTimeShift : Prop :=
  ∀ (s : State) (f : Frame) (d : Time),
    ∃ t, exec (.frame f) s = .next t ∧
      exec (.frame { f with now := f.now + d }) (s.shiftTime d) = .next (t.shiftTime d)

/-- Rule R35: the value of every state element after RESET, whatever the state before; last, the rule's reset windows for the
bucket counts and margins of the reference configuration. -/
def Obligations.ResetGivesEveryElementItsValue : Prop :=
  ∀ s : State, ∃ t, exec .reset s = .next t ∧
    (∀ k, (t.knob k).currentIndex = 0#4 ∧ (t.knob k).lastRaw = 0#10 ∧ (t.knob k).lowerBound = 0#10 ∧
      (t.knob k).upperBound.toNat =
        min (1024 / (t.knob k).numValues.toNat + (t.knob k).hysteresis.toNat) 1023) ∧
    t.clkMode.kRate.curveSel.toNat = 0 ∧
    (∀ p, (t.clock p).period = 0#32 ∧ (t.clock p).duty = 32768#17 ∧ (t.clock p).phase = 0#16 ∧
      (t.clock p).running = decide (p ≠ .bst) ∧ (t.clock p).previousState = false ∧
      (t.clock p).lastRisingEdgeTime = 0#32 ∧ (t.clock p).lastObservedTime = 0#32) ∧
    t.clkMode.prevTrig = false ∧ t.bstMode.prevTrig = false ∧ t.divMode.prevIn = false ∧
    t.mulMode.prevIn = false ∧ t.bstMode.gates = 0#8 ∧ t.divMode.lastInRise = 0#32 ∧
    t.mulMode.lastInRise = 0#32 ∧ t.outLevel = 0#8 ∧ t.inReady = true ∧ t.outValid = false ∧
    ∀ k,
      ((t.knob k).numValues.toNat = 4 → (t.knob k).hysteresis = 5#10 → (t.knob k).upperBound = 261#10) ∧
      ((t.knob k).numValues.toNat = 3 → (t.knob k).hysteresis = 5#10 → (t.knob k).upperBound = 346#10) ∧
      ((t.knob k).numValues.toNat = 1 → (t.knob k).hysteresis = 0#10 → (t.knob k).upperBound = 1023#10) ∧
      ((t.knob k).numValues.toNat = 8 → (t.knob k).hysteresis = 5#10 → (t.knob k).upperBound = 133#10) ∧
      ((t.knob k).numValues.toNat = 2 → (t.knob k).hysteresis = 5#10 → (t.knob k).upperBound = 517#10)

/-- The model's reading that RESET leaves the configuration alone (log 2): bucket counts, margins, tables, and what the
host has yet to present. -/
def Obligations.ResetKeepsConfiguration : Prop :=
  ∀ s : State, ∃ t, exec .reset s = .next t ∧ t.config = s.config ∧ t.input = s.input ∧ t.result = .none ∧
    ∀ k, (t.knob k).numValues = (s.knob k).numValues ∧ (t.knob k).hysteresis = (s.knob k).hysteresis

/-- Rule R32: in the composed core the configuration and the duties are constants: a frame writes none of them. -/
def Obligations.FrameKeepsConfigurationAndDuty : Prop :=
  ∀ (s : State) (f : Frame), ∃ t, exec (.frame f) s = .next t ∧ t.config = s.config ∧ t.input = s.input ∧
    (∀ k, (t.knob k).numValues = (s.knob k).numValues ∧ (t.knob k).hysteresis = (s.knob k).hysteresis) ∧
    (∀ p, (t.clock p).duty = (s.clock p).duty)

/-! ### Invariants -/

/-- The invariant `State.wf` is kept by every step, from every state that has it, reached or not. It is that of rules R22, R26
(a) and (c), R84 and R170, and with them `in_ready` = 1 (rule R85), which every step keeps only by the model's reading that a
frame is one step (log 13, DEDUCED). -/
def Obligations.StepKeepsStateInvariant : Prop :=
  ∀ s t : State, s.wf = true → step s = .next t → t.wf = true

/-- The invariant, and the sizes of rules R7 and R8, hold after reset in every configuration, each legal by its type; and
`State.reset` is the reset state of the reference configuration of rule R7, which is the model's choice among them (log 1,
DESIGN CHOICE: the spec leaves these parameters open). -/
def Obligations.ResetHoldsInvariantInEveryConfiguration : Prop :=
  (∀ c : Config, (State.ofConfig c).wf = true ∧ (State.ofConfig c).sized = true) ∧
  State.reset = State.ofConfig Config.reference

/-- Rules R7, R66: the operations the ports can cause, FRAME and RESET, keep the knobs at the sizes of the configuration, which
are those of the tables. -/
def Obligations.ComposedCoreKeepsTableSizes : Prop :=
  ∀ s : State, s.sized = true →
    (∃ t, exec .reset s = .next t ∧ t.sized = true) ∧
    (∀ f, ∃ t, exec (.frame f) s = .next t ∧ t.sized = true)

/-- Rule R66: in a state with the invariant and the sizes, every table entry that an operation reads at the knobs' indices
is in the table, and the mode index is one of the four assigned. -/
def Obligations.TableReadsAreInBounds : Prop :=
  ∀ s : State, s.wf = true → s.sized = true →
    (∃ row, s.config.tables.clkCurve[s.clkMode.kRate.curveSel.toNat]? = some row ∧
      s.clkMode.kRate.k.currentIndex.toNat + 1 < row.length) ∧
    (∃ row, s.config.tables.clkCurve[s.clkMode.kRange.currentIndex.toNat]? = some row ∧
      s.clkMode.kRate.k.currentIndex.toNat + 1 < row.length) ∧
    s.bstMode.kRate.currentIndex.toNat + 1 < s.config.tables.bstCurve.length ∧
    s.bstMode.kRepeat.currentIndex.toNat < s.config.tables.bstRepeat.length ∧
    (∃ row, s.config.tables.divRatio[s.divMode.kRange.currentIndex.toNat]? = some row ∧
      s.divMode.kRate.currentIndex.toNat < row.length) ∧
    (∃ row, s.config.tables.mulRatio[s.mulMode.kRange.currentIndex.toNat]? = some row ∧
      s.mulMode.kRate.currentIndex.toNat < row.length) ∧
    s.kMode.currentIndex.toNat < 4
end

