-- ==== Sys2Proof/Laws/Arith.lean ====
section
/-! SUPPORT. Bounds of the arithmetic primitives: bucket steps and windows (rules R101 to R104), projections (rules R107,
R108), the phase mapping (rule R136). -/

namespace Sys2Proof

theorem bucketsLegal_iff {n : Buckets} : bucketsLegal n = true ↔ 1 ≤ n.toNat ∧ n.toNat ≤ 16 := by
  simp [bucketsLegal]

/-! ### Legal numbers (rule R8) -/

theorem BucketCount.ext_toNat {n m : BucketCount} (h : n.toNat = m.toNat) : n = m := by
  cases n; cases m
  simp only [BucketCount.mk.injEq]
  exact BitVec.eq_of_toNat_eq h

@[simp] theorem BucketCount.toNat_mk (n : Buckets) (h : bucketsLegal n = true) : (BucketCount.mk n h).toNat = n.toNat := rfl

theorem RepeatCount.bounds (n : RepeatCount) : 1 ≤ n.toNat ∧ n.toNat ≤ 255 := by
  have h0 : n.toNat ≠ 0 := fun h => n.positive (BitVec.eq_of_toNat_eq h)
  have h1 : n.toNat < 256 := n.bits.isLt
  omega

theorem Ratio.bounds (q : Ratio) : 1 ≤ q.num.toNat ∧ 1 ≤ q.den.toNat :=
  ⟨Nat.pos_of_ne_zero fun h => q.numPositive (BitVec.eq_of_toNat_eq h),
    Nat.pos_of_ne_zero fun h => q.denPositive (BitVec.eq_of_toNat_eq h)⟩

end Sys2Proof

namespace Sys2Proof.Machine

/-! ### Steps and buckets -/

theorem bucketStep_ge (n : BucketCount) : 64 ≤ bucketStep n :=
  (Nat.le_div_iff_mul_le n.bounds.1).2 (by have := n.bounds.2; simp only [rawRange]; omega)

theorem bucketStep_mul_le (n : BucketCount) : n.toNat * bucketStep n ≤ 1024 := Nat.mul_div_le _ _

/-- The bucket below the top ends at 960 or lower (rule R104). -/
theorem bucketStep_mul_pred_le (n : BucketCount) : (n.toNat - 1) * bucketStep n ≤ 960 := by
  have h : ∀ b : Buckets, bucketsLegal b = true → (b.toNat - 1) * (rawRange / b.toNat) ≤ 960 := by decide
  exact h n.bits n.legal

/-- All but the last raw unit is covered by the buckets' steps (rule R104). -/
theorem bucketStep_gap (n : BucketCount) : bucketStep n ≤ 1023 - (n.toNat - 1) * bucketStep n + 1 := by
  have h : ∀ b : Buckets, bucketsLegal b = true →
      rawRange / b.toNat ≤ 1023 - (b.toNat - 1) * (rawRange / b.toNat) + 1 := by decide
  exact h n.bits n.legal

theorem bucketOf_toNat (n : BucketCount) (raw : Raw) :
    (bucketOf n raw).toNat = min (raw.toNat / bucketStep n) (n.toNat - 1) := by
  have h16 := n.bounds.2
  rw [bucketOf, BitVec.toNat_ofNat, Nat.mod_eq_of_lt]
  omega

/-- Quantisation never produces an index outside 0..N-1 (rule R22 (a)). -/
theorem bucketOf_lt (n : BucketCount) (raw : Raw) : (bucketOf n raw).toNat < n.toNat := by
  have h1 := n.bounds.1
  rw [bucketOf_toNat]; omega

/-! ### Windows -/

theorem windowUpper_toNat (n : BucketCount) (h : Raw) (i : Index) :
    (windowUpper n h i).toNat = min (i.toNat * bucketStep n + bucketStep n + h.toNat) 1023 := by
  rw [windowUpper, BitVec.toNat_ofNat, Nat.mod_eq_of_lt]
  simp only [rawMax]; omega

theorem index_mul_step_le {n : BucketCount} {i : Index} (hi : i.toNat < n.toNat) : i.toNat * bucketStep n ≤ 960 :=
  le_trans (Nat.mul_le_mul_right _ (by omega)) (bucketStep_mul_pred_le n)

theorem windowLower_toNat {n : BucketCount} {i : Index} (hi : i.toNat < n.toNat) (h : Raw) :
    (windowLower n h i).toNat = i.toNat * bucketStep n - h.toNat := by
  have := index_mul_step_le hi
  rw [windowLower, BitVec.toNat_ofNat, Nat.mod_eq_of_lt]
  omega

/-- The window of a legal index is never empty (rule R104, in the form rule R22 (c) needs). -/
theorem windowLower_lt_windowUpper {n : BucketCount} {i : Index} (hi : i.toNat < n.toNat) (h : Raw) :
    (windowLower n h i).toNat < (windowUpper n h i).toNat := by
  have h1 := bucketStep_ge n
  have h2 := index_mul_step_le hi
  rw [windowLower_toNat hi, windowUpper_toNat]
  omega

/-! ### Projections -/

theorem truncDiv_natCast (a b : Nat) : truncDiv (a : Int) b = ((a / b : Nat) : Int) := by
  rw [truncDiv, Int.tdiv_eq_ediv_of_nonneg (by omega)]; rfl

theorem truncDiv_neg_natCast (a b : Nat) : truncDiv (-(a : Int)) b = -((a / b : Nat) : Int) := by
  rw [truncDiv, Int.neg_tdiv, ← truncDiv, truncDiv_natCast]

/-- A projection onto a rising range, in natural numbers. -/
theorem project_rising {pos span : Nat} {a b : Time} (hp : pos ≤ span) (hab : a.toNat ≤ b.toNat) :
    (project pos span a b).toNat = a.toNat + pos * (b.toNat - a.toNat) / span := by
  have hb := b.isLt
  have e : ((pos : Int) * ((b.toNat : Int) - a.toNat)) = ((pos * (b.toNat - a.toNat) : Nat) : Int) := by
    push_cast [Nat.cast_sub hab]; ring
  have hle : pos * (b.toNat - a.toNat) / span ≤ b.toNat - a.toNat := by
    rcases Nat.eq_zero_or_pos span with h0 | h0
    · simp [h0]
    · exact Nat.div_le_of_le_mul (Nat.mul_le_mul_right _ hp)
  rw [project, e, truncDiv_natCast, ← Nat.cast_add, BitVec.ofInt_natCast, BitVec.toNat_ofNat, Nat.mod_eq_of_lt]
  omega

/-- A projection onto a falling range, in natural numbers. -/
theorem project_falling {pos span : Nat} {a b : Time} (hp : pos ≤ span) (hab : b.toNat ≤ a.toNat) :
    (project pos span a b).toNat = a.toNat - pos * (a.toNat - b.toNat) / span := by
  have ha := a.isLt
  have e : ((pos : Int) * ((b.toNat : Int) - a.toNat)) = -((pos * (a.toNat - b.toNat) : Nat) : Int) := by
    push_cast [Nat.cast_sub hab]; ring
  have hle : pos * (a.toNat - b.toNat) / span ≤ a.toNat - b.toNat := by
    rcases Nat.eq_zero_or_pos span with h0 | h0
    · simp [h0]
    · exact Nat.div_le_of_le_mul (Nat.mul_le_mul_right _ hp)
  have hle' : pos * (a.toNat - b.toNat) / span ≤ a.toNat := by omega
  rw [project, e, truncDiv_neg_natCast, ← Int.sub_eq_add_neg, ← Int.ofNat_sub hle', BitVec.ofInt_natCast,
    BitVec.toNat_ofNat, Nat.mod_eq_of_lt]
  exact lt_of_le_of_lt (Nat.sub_le _ _) ha

/-- A projection as the rules write it, with a division that rounds toward zero, and between its ends. -/
theorem project_toNat {pos span : Nat} (hp : pos ≤ span) (a b : Time) :
    ((project pos span a b).toNat : Int) =
      a.toNat + Int.tdiv (pos * ((b.toNat : Int) - a.toNat)) span ∧
    min a.toNat b.toNat ≤ (project pos span a b).toNat ∧ (project pos span a b).toNat ≤ max a.toNat b.toNat := by
  have hle : ∀ d : Nat, pos * d / span ≤ d := fun d => by
    rcases Nat.eq_zero_or_pos span with h0 | h0
    · simp [h0]
    · exact Nat.div_le_of_le_mul (Nat.mul_le_mul_right _ hp)
  rcases le_total a.toNat b.toNat with h | h
  · have e : ((pos : Int) * ((b.toNat : Int) - a.toNat)) = ((pos * (b.toNat - a.toNat) : Nat) : Int) := by
      push_cast [Nat.cast_sub h]; ring
    have hd := truncDiv_natCast (pos * (b.toNat - a.toNat)) span
    rw [truncDiv, ← e] at hd
    have := hle (b.toNat - a.toNat)
    rw [hd, project_rising hp h]
    generalize pos * (b.toNat - a.toNat) / span = z at *
    omega
  · have e : ((pos : Int) * ((b.toNat : Int) - a.toNat)) = -((pos * (a.toNat - b.toNat) : Nat) : Int) := by
      push_cast [Nat.cast_sub h]; ring
    have hd := truncDiv_neg_natCast (pos * (a.toNat - b.toNat)) span
    rw [truncDiv, ← e] at hd
    have := hle (a.toNat - b.toNat)
    rw [hd, project_falling hp h]
    generalize pos * (a.toNat - b.toNat) / span = z at *
    omega

/-! ### Timestamps -/

theorem subT_toNat (a b : Time) : ((subT a b).toNat : Int) = ((a.toNat : Int) - b.toNat) % 2 ^ 32 := by
  simp only [subT, BitVec.toNat_sub]
  have := a.isLt
  have := b.isLt
  omega

/-- A difference of timestamps does not depend on the time origin. -/
theorem subT_add_add (t a d : Time) : subT (t + d) (a + d) = subT t a := by
  simp only [subT]; bv_omega

theorem subT_add_left (t a d : Time) : subT (t + d) a = subT t a + d := by
  simp only [subT]; bv_omega

theorem subT_subT (a b : Time) : subT a (subT a b) = b := by
  simp only [subT]; bv_omega

/-! ### The phase mapping -/

theorem toPhase_lt {e p : Nat} (h : e < p) : toPhase e p < phaseMax := by
  rw [toPhase, Nat.div_lt_iff_lt_mul (by omega), Nat.mul_comm]
  exact Nat.mul_lt_mul_of_pos_left h (by decide)

theorem toTime_lt {ph p : Nat} (hph : ph < phaseMax) (hp : 0 < p) : toTime ph p < p := by
  rw [toTime, Nat.div_lt_iff_lt_mul (by decide), Nat.mul_comm]
  exact Nat.mul_lt_mul_of_pos_left hph hp

theorem toTime_le (ph p : Nat) (hph : ph < phaseMax) : toTime ph p ≤ p := by
  rcases Nat.eq_zero_or_pos p with h | h
  · simp [toTime, h]
  · exact (toTime_lt hph h).le

end Sys2Proof.Machine
end

