-- ==== Sys2Proof/Laws/State.lean ====
section
/-! SUPPORT. The small lemmas of the state: which part a unit operand names, and one lemma per field per update. -/

namespace Sys2Proof.Machine

/-! ### The parts that unit operands name -/

@[simp] theorem State.knob_msMode (s : State) : s.knob .msMode = s.kMode := rfl
@[simp] theorem State.knob_clkRate (s : State) : s.knob .clkRate = s.clkMode.kRate.k := rfl
@[simp] theorem State.knob_clkRange (s : State) : s.knob .clkRange = s.clkMode.kRange := rfl
@[simp] theorem State.knob_bstRate (s : State) : s.knob .bstRate = s.bstMode.kRate := rfl
@[simp] theorem State.knob_bstRepeat (s : State) : s.knob .bstRepeat = s.bstMode.kRepeat := rfl
@[simp] theorem State.knob_divRate (s : State) : s.knob .divRate = s.divMode.kRate := rfl
@[simp] theorem State.knob_divRange (s : State) : s.knob .divRange = s.divMode.kRange := rfl
@[simp] theorem State.knob_mulRate (s : State) : s.knob .mulRate = s.mulMode.kRate := rfl
@[simp] theorem State.knob_mulRange (s : State) : s.knob .mulRange = s.mulMode.kRange := rfl
@[simp] theorem State.clock_clk (s : State) : s.clock .clk = s.clkMode.clk := rfl
@[simp] theorem State.clock_bst (s : State) : s.clock .bst = s.bstMode.clk := rfl
@[simp] theorem State.clock_div (s : State) : s.clock .div = s.divMode.clk := rfl
@[simp] theorem State.clock_mul (s : State) : s.clock .mul = s.mulMode.clk := rfl

/-! ### Replacing a knob -/

@[simp] theorem State.knob_setKnob (s : State) (k : KnobId) (q : QuantizedKnob) : (s.setKnob k q).knob k = q := by
  cases k <;> rfl

theorem State.knob_setKnob_of_ne (s : State) {k j : KnobId} (h : j ≠ k) (q : QuantizedKnob) :
    (s.setKnob k q).knob j = s.knob j := by
  cases k <;> cases j <;> first | rfl | exact absurd rfl h

@[simp] theorem State.clock_setKnob (s : State) (k : KnobId) (q : QuantizedKnob) (p : ClockId) :
    (s.setKnob k q).clock p = s.clock p := by
  cases k <;> cases p <;> rfl

@[simp] theorem State.setKnob_clkMode_curveSel (s : State) (k : KnobId) (q : QuantizedKnob) :
    (s.setKnob k q).clkMode.kRate.curveSel.toNat = s.clkMode.kRate.curveSel.toNat := by cases k <;> rfl

@[simp] theorem State.setKnob_clkMode_nCurves (s : State) (k : KnobId) (q : QuantizedKnob) :
    (s.setKnob k q).clkMode.kRate.nCurves = s.clkMode.kRate.nCurves := by cases k <;> rfl

@[simp] theorem State.setKnob_clkMode_prevTrig (s : State) (k : KnobId) (q : QuantizedKnob) :
    (s.setKnob k q).clkMode.prevTrig = s.clkMode.prevTrig := by cases k <;> rfl

@[simp] theorem State.setKnob_bstMode_gates (s : State) (k : KnobId) (q : QuantizedKnob) :
    (s.setKnob k q).bstMode.gates = s.bstMode.gates := by cases k <;> rfl

@[simp] theorem State.setKnob_bstMode_prevTrig (s : State) (k : KnobId) (q : QuantizedKnob) :
    (s.setKnob k q).bstMode.prevTrig = s.bstMode.prevTrig := by cases k <;> rfl

@[simp] theorem State.setKnob_divMode_prevIn (s : State) (k : KnobId) (q : QuantizedKnob) :
    (s.setKnob k q).divMode.prevIn = s.divMode.prevIn := by cases k <;> rfl

@[simp] theorem State.setKnob_divMode_lastInRise (s : State) (k : KnobId) (q : QuantizedKnob) :
    (s.setKnob k q).divMode.lastInRise = s.divMode.lastInRise := by cases k <;> rfl

@[simp] theorem State.setKnob_mulMode_prevIn (s : State) (k : KnobId) (q : QuantizedKnob) :
    (s.setKnob k q).mulMode.prevIn = s.mulMode.prevIn := by cases k <;> rfl

@[simp] theorem State.setKnob_mulMode_lastInRise (s : State) (k : KnobId) (q : QuantizedKnob) :
    (s.setKnob k q).mulMode.lastInRise = s.mulMode.lastInRise := by cases k <;> rfl

@[simp] theorem State.setKnob_outLevel (s : State) (k : KnobId) (q : QuantizedKnob) :
    (s.setKnob k q).outLevel = s.outLevel := by cases k <;> rfl

@[simp] theorem State.setKnob_inReady (s : State) (k : KnobId) (q : QuantizedKnob) :
    (s.setKnob k q).inReady = s.inReady := by cases k <;> rfl

@[simp] theorem State.setKnob_outValid (s : State) (k : KnobId) (q : QuantizedKnob) :
    (s.setKnob k q).outValid = s.outValid := by cases k <;> rfl

@[simp] theorem State.setKnob_config (s : State) (k : KnobId) (q : QuantizedKnob) :
    (s.setKnob k q).config = s.config := by cases k <;> rfl

@[simp] theorem State.setKnob_input (s : State) (k : KnobId) (q : QuantizedKnob) :
    (s.setKnob k q).input = s.input := by cases k <;> rfl

@[simp] theorem State.setKnob_result (s : State) (k : KnobId) (q : QuantizedKnob) :
    (s.setKnob k q).result = s.result := by cases k <;> rfl

/-! ### Replacing a clock -/

@[simp] theorem State.clock_setClock (s : State) (p : ClockId) (c : PhaseClock) : (s.setClock p c).clock p = c := by
  cases p <;> rfl

theorem State.clock_setClock_of_ne (s : State) {p j : ClockId} (h : j ≠ p) (c : PhaseClock) :
    (s.setClock p c).clock j = s.clock j := by
  cases p <;> cases j <;> first | rfl | exact absurd rfl h

@[simp] theorem State.knob_setClock (s : State) (p : ClockId) (c : PhaseClock) (k : KnobId) :
    (s.setClock p c).knob k = s.knob k := by
  cases p <;> cases k <;> rfl

@[simp] theorem State.setClock_clkMode_curveSel (s : State) (p : ClockId) (c : PhaseClock) :
    (s.setClock p c).clkMode.kRate.curveSel.toNat = s.clkMode.kRate.curveSel.toNat := by cases p <;> rfl

@[simp] theorem State.setClock_clkMode_nCurves (s : State) (p : ClockId) (c : PhaseClock) :
    (s.setClock p c).clkMode.kRate.nCurves = s.clkMode.kRate.nCurves := by cases p <;> rfl

@[simp] theorem State.setClock_clkMode_prevTrig (s : State) (p : ClockId) (c : PhaseClock) :
    (s.setClock p c).clkMode.prevTrig = s.clkMode.prevTrig := by cases p <;> rfl

@[simp] theorem State.setClock_bstMode_gates (s : State) (p : ClockId) (c : PhaseClock) :
    (s.setClock p c).bstMode.gates = s.bstMode.gates := by cases p <;> rfl

@[simp] theorem State.setClock_bstMode_prevTrig (s : State) (p : ClockId) (c : PhaseClock) :
    (s.setClock p c).bstMode.prevTrig = s.bstMode.prevTrig := by cases p <;> rfl

@[simp] theorem State.setClock_divMode_prevIn (s : State) (p : ClockId) (c : PhaseClock) :
    (s.setClock p c).divMode.prevIn = s.divMode.prevIn := by cases p <;> rfl

@[simp] theorem State.setClock_divMode_lastInRise (s : State) (p : ClockId) (c : PhaseClock) :
    (s.setClock p c).divMode.lastInRise = s.divMode.lastInRise := by cases p <;> rfl

@[simp] theorem State.setClock_mulMode_prevIn (s : State) (p : ClockId) (c : PhaseClock) :
    (s.setClock p c).mulMode.prevIn = s.mulMode.prevIn := by cases p <;> rfl

@[simp] theorem State.setClock_mulMode_lastInRise (s : State) (p : ClockId) (c : PhaseClock) :
    (s.setClock p c).mulMode.lastInRise = s.mulMode.lastInRise := by cases p <;> rfl

@[simp] theorem State.setClock_outLevel (s : State) (p : ClockId) (c : PhaseClock) :
    (s.setClock p c).outLevel = s.outLevel := by cases p <;> rfl

@[simp] theorem State.setClock_inReady (s : State) (p : ClockId) (c : PhaseClock) :
    (s.setClock p c).inReady = s.inReady := by cases p <;> rfl

@[simp] theorem State.setClock_outValid (s : State) (p : ClockId) (c : PhaseClock) :
    (s.setClock p c).outValid = s.outValid := by cases p <;> rfl

@[simp] theorem State.setClock_config (s : State) (p : ClockId) (c : PhaseClock) :
    (s.setClock p c).config = s.config := by cases p <;> rfl

@[simp] theorem State.setClock_input (s : State) (p : ClockId) (c : PhaseClock) :
    (s.setClock p c).input = s.input := by cases p <;> rfl

@[simp] theorem State.setClock_result (s : State) (p : ClockId) (c : PhaseClock) :
    (s.setClock p c).result = s.result := by cases p <;> rfl

/-! ### Replacing the CurveKnob `CLK.kRate` -/

/-- A CurveKnob with the same QuantizedKnob inside leaves every knob. -/
theorem State.knob_setClkRate (s : State) {c : CurveKnob} (h : c.k = s.clkMode.kRate.k) (k : KnobId) :
    (s.setClkRate c).knob k = s.knob k := by
  cases k <;> first | exact h | rfl

@[simp] theorem State.clock_setClkRate (s : State) (c : CurveKnob) (p : ClockId) :
    (s.setClkRate c).clock p = s.clock p := by
  cases p <;> rfl

@[simp] theorem State.setClkRate_kRate (s : State) (c : CurveKnob) : (s.setClkRate c).clkMode.kRate = c := rfl

@[simp] theorem State.setClkRate_clkMode_prevTrig (s : State) (c : CurveKnob) :
    (s.setClkRate c).clkMode.prevTrig = s.clkMode.prevTrig := rfl

@[simp] theorem State.setClkRate_bstMode_gates (s : State) (c : CurveKnob) :
    (s.setClkRate c).bstMode.gates = s.bstMode.gates := rfl

@[simp] theorem State.setClkRate_bstMode_prevTrig (s : State) (c : CurveKnob) :
    (s.setClkRate c).bstMode.prevTrig = s.bstMode.prevTrig := rfl

@[simp] theorem State.setClkRate_divMode_prevIn (s : State) (c : CurveKnob) :
    (s.setClkRate c).divMode.prevIn = s.divMode.prevIn := rfl

@[simp] theorem State.setClkRate_divMode_lastInRise (s : State) (c : CurveKnob) :
    (s.setClkRate c).divMode.lastInRise = s.divMode.lastInRise := rfl

@[simp] theorem State.setClkRate_mulMode_prevIn (s : State) (c : CurveKnob) :
    (s.setClkRate c).mulMode.prevIn = s.mulMode.prevIn := rfl

@[simp] theorem State.setClkRate_mulMode_lastInRise (s : State) (c : CurveKnob) :
    (s.setClkRate c).mulMode.lastInRise = s.mulMode.lastInRise := rfl

@[simp] theorem State.setClkRate_outLevel (s : State) (c : CurveKnob) :
    (s.setClkRate c).outLevel = s.outLevel := rfl

@[simp] theorem State.setClkRate_inReady (s : State) (c : CurveKnob) :
    (s.setClkRate c).inReady = s.inReady := rfl

@[simp] theorem State.setClkRate_outValid (s : State) (c : CurveKnob) :
    (s.setClkRate c).outValid = s.outValid := rfl

@[simp] theorem State.setClkRate_config (s : State) (c : CurveKnob) :
    (s.setClkRate c).config = s.config := rfl

@[simp] theorem State.setClkRate_input (s : State) (c : CurveKnob) :
    (s.setClkRate c).input = s.input := rfl

@[simp] theorem State.setClkRate_result (s : State) (c : CurveKnob) :
    (s.setClkRate c).result = s.result := rfl

/-! ### The curve selector -/

@[simp] theorem CurveKnob.setCurve_k (c : CurveKnob) (sel : Index) : (c.setCurve sel).k = c.k := rfl

@[simp] theorem CurveKnob.setCurve_nCurves (c : CurveKnob) (sel : Index) : (c.setCurve sel).nCurves = c.nCurves := rfl

theorem CurveKnob.select_curveSel (c : CurveKnob) {i : Nat} (h : i < c.nCurves.toNat) :
    (c.select i h).curveSel.toNat = i := by
  show (BitVec.ofNat (selectorWidth c.nCurves) i).toNat = i
  rw [BitVec.toNat_ofNat, Nat.mod_eq_of_lt (Nat.lt_of_lt_of_le h (le_two_pow_selectorWidth _))]

/-- A selector of the range is stored as it is (rule R123). -/
theorem CurveKnob.setCurve_curveSel (c : CurveKnob) {sel : Index} (h : sel.toNat < c.nCurves.toNat) :
    (c.setCurve sel).curveSel.toNat = sel.toNat := by
  rw [CurveKnob.setCurve, select_curveSel, if_pos h]

/-! ### Recording a result -/

@[simp] theorem State.withResult_result (s : State) (r : Result) : (s.withResult r).result = r := rfl

@[simp] theorem State.knob_withResult (s : State) (r : Result) (k : KnobId) : (s.withResult r).knob k = s.knob k := by
  cases k <;> rfl

@[simp] theorem State.clock_withResult (s : State) (r : Result) (p : ClockId) :
    (s.withResult r).clock p = s.clock p := by
  cases p <;> rfl

@[simp] theorem State.withResult_kMode (s : State) (r : Result) : (s.withResult r).kMode = s.kMode := rfl

@[simp] theorem State.withResult_clkMode (s : State) (r : Result) : (s.withResult r).clkMode = s.clkMode := rfl

@[simp] theorem State.withResult_bstMode (s : State) (r : Result) : (s.withResult r).bstMode = s.bstMode := rfl

@[simp] theorem State.withResult_divMode (s : State) (r : Result) : (s.withResult r).divMode = s.divMode := rfl

@[simp] theorem State.withResult_mulMode (s : State) (r : Result) : (s.withResult r).mulMode = s.mulMode := rfl

@[simp] theorem State.withResult_outLevel (s : State) (r : Result) : (s.withResult r).outLevel = s.outLevel := rfl

@[simp] theorem State.withResult_inReady (s : State) (r : Result) : (s.withResult r).inReady = s.inReady := rfl

@[simp] theorem State.withResult_outValid (s : State) (r : Result) : (s.withResult r).outValid = s.outValid := rfl

@[simp] theorem State.withResult_config (s : State) (r : Result) : (s.withResult r).config = s.config := rfl

@[simp] theorem State.withResult_input (s : State) (r : Result) : (s.withResult r).input = s.input := rfl

end Sys2Proof.Machine
end

