-- ==== Sys2Proof/Laws/Clock.lean ====
section
/-! SUPPORT. What the operations on one PhaseClock can do (rules R137 to R145), one lemma per field, and that each keeps the
invariant of rule R26 (a), (c). -/

namespace Sys2Proof.Machine

theorem PhaseClock.wf_iff (p : PhaseClock) : p.wf = true ↔
    (p.running = false → p.phase = 0#16) ∧ p.duty.toNat ≤ 65536 := by
  cases h : p.running <;> simp [PhaseClock.wf, h]

theorem PhaseClock.getState_iff (p : PhaseClock) :
    p.getState = true ↔ p.running = true ∧ p.phase.toNat < p.duty.toNat := by
  simp [PhaseClock.getState]

@[simp] theorem PhaseClock.getState_stopped {p : PhaseClock} (h : p.running = false) : p.getState = false := by
  simp [PhaseClock.getState, h]

/-! ### PC.START and PC.STOP -/

@[simp] theorem PhaseClock.start_period (p : PhaseClock) (t : Time) : (p.start t).period = p.period := rfl
@[simp] theorem PhaseClock.start_duty (p : PhaseClock) (t : Time) : (p.start t).duty = p.duty := rfl
@[simp] theorem PhaseClock.start_phase (p : PhaseClock) (t : Time) : (p.start t).phase = 0#16 := rfl
@[simp] theorem PhaseClock.start_running (p : PhaseClock) (t : Time) : (p.start t).running = true := rfl
@[simp] theorem PhaseClock.start_previousState (p : PhaseClock) (t : Time) :
    (p.start t).previousState = p.previousState := rfl
@[simp] theorem PhaseClock.stop_running (p : PhaseClock) : p.stop.running = false := rfl
@[simp] theorem PhaseClock.stop_phase (p : PhaseClock) : p.stop.phase = 0#16 := rfl
@[simp] theorem PhaseClock.stop_duty (p : PhaseClock) : p.stop.duty = p.duty := rfl

theorem PhaseClock.wf_start {p : PhaseClock} (h : p.wf = true) (t : Time) : (p.start t).wf = true :=
  (wf_iff _).2 ⟨fun _ => rfl, ((wf_iff p).1 h).2⟩

theorem PhaseClock.wf_stop {p : PhaseClock} (h : p.wf = true) : p.stop.wf = true :=
  (wf_iff _).2 ⟨fun _ => rfl, ((wf_iff p).1 h).2⟩

/-! ### PC.SYNC -/

theorem PhaseClock.sync_stopped {p : PhaseClock} (h : p.running = false) (target : Duty) : p.sync target = p := by
  simp [PhaseClock.sync, h]

theorem PhaseClock.sync_running {p : PhaseClock} (h : p.running = true) (target : Duty) :
    p.sync target = { p with
      phase := BitVec.ofNat 16 (min target.toNat 65535)
      lastRisingEdgeTime :=
        subT p.lastObservedTime (BitVec.ofNat 32 (toTime (min target.toNat 65535) p.period.toNat)) } := by
  simp [PhaseClock.sync, h]

@[simp] theorem PhaseClock.sync_fields (p : PhaseClock) (target : Duty) :
    (p.sync target).period = p.period ∧ (p.sync target).duty = p.duty ∧ (p.sync target).running = p.running ∧
    (p.sync target).previousState = p.previousState ∧
    (p.sync target).lastObservedTime = p.lastObservedTime := by
  cases h : p.running <;> simp [PhaseClock.sync, h]

theorem PhaseClock.sync_phase {p : PhaseClock} (h : p.running = true) (target : Duty) :
    (p.sync target).phase.toNat = min target.toNat 65535 := by
  rw [sync_running h, BitVec.toNat_ofNat, Nat.mod_eq_of_lt]
  omega

theorem PhaseClock.wf_sync {p : PhaseClock} (h : p.wf = true) (target : Duty) : (p.sync target).wf = true := by
  obtain ⟨h1, h2⟩ := (wf_iff p).1 h
  obtain ⟨-, hd, hr, -⟩ := p.sync_fields target
  refine (wf_iff _).2 ⟨fun h0 => ?_, by rw [hd]; exact h2⟩
  rw [hr] at h0
  rw [sync_stopped h0]; exact h1 h0

/-! ### PC.UPDATE -/

theorem PhaseClock.advances_iff (p : PhaseClock) : p.advances = true ↔ p.running = true ∧ p.period ≠ 0#32 := by
  simp [PhaseClock.advances]

theorem PhaseClock.advances_false {p : PhaseClock} (h : p.running = false ∨ p.period = 0#32) : p.advances = false := by
  rcases h with h | h <;> simp [PhaseClock.advances, h]

/-- A Stopped or disabled clock is not touched (rule R143). -/
theorem PhaseClock.update_noop {p : PhaseClock} (h : p.advances = false) (t : Time) : p.update t = p := by
  simp [PhaseClock.update, h]

/-- An executed update: observe, then re-anchor on a rising edge (rule R143). -/
theorem PhaseClock.update_advances {p : PhaseClock} (h : p.advances = true) (t : Time) :
    p.update t = (p.observe t).reanchor t := by
  simp [PhaseClock.update, h]

/-- The phase that an executed update computes (rules R136, R143). -/
theorem PhaseClock.observe_phase {p : PhaseClock} (h : p.period ≠ 0#32) (t : Time) :
    (p.observe t).phase.toNat =
      toPhase ((t - p.lastRisingEdgeTime).toNat % p.period.toNat) p.period.toNat := by
  have hp : 0 < p.period.toNat := Nat.pos_of_ne_zero fun h0 => h (BitVec.eq_of_toNat_eq h0)
  simp only [PhaseClock.observe, subT]
  rw [BitVec.toNat_ofNat, Nat.mod_eq_of_lt (toPhase_lt (Nat.mod_lt _ hp))]

@[simp] theorem PhaseClock.observe_fields (p : PhaseClock) (t : Time) :
    (p.observe t).period = p.period ∧ (p.observe t).duty = p.duty ∧ (p.observe t).running = p.running ∧
    (p.observe t).previousState = p.getState ∧ (p.observe t).lastObservedTime = t ∧
    (p.observe t).lastRisingEdgeTime = p.lastRisingEdgeTime := by
  refine ⟨?_, ?_, ?_, ?_, ?_, ?_⟩ <;> rw [PhaseClock.observe]

@[simp] theorem PhaseClock.reanchor_fields (p : PhaseClock) (t : Time) :
    (p.reanchor t).period = p.period ∧ (p.reanchor t).duty = p.duty ∧ (p.reanchor t).phase = p.phase ∧
    (p.reanchor t).running = p.running ∧ (p.reanchor t).previousState = p.previousState ∧
    (p.reanchor t).lastObservedTime = p.lastObservedTime := by
  cases h : p.isRising <;> simp [PhaseClock.reanchor, h]

theorem PhaseClock.reanchor_anchor (p : PhaseClock) (t : Time) :
    (p.reanchor t).lastRisingEdgeTime = if p.isRising then t else p.lastRisingEdgeTime := by
  cases h : p.isRising <;> simp [PhaseClock.reanchor, h]

@[simp] theorem PhaseClock.update_fields (p : PhaseClock) (t : Time) :
    (p.update t).period = p.period ∧ (p.update t).duty = p.duty ∧ (p.update t).running = p.running := by
  cases h : p.advances
  · simp [update_noop h]
  · rw [update_advances h]; simp

theorem PhaseClock.wf_update {p : PhaseClock} (h : p.wf = true) (t : Time) : (p.update t).wf = true := by
  obtain ⟨h1, h2⟩ := (wf_iff p).1 h
  obtain ⟨-, hd, hr⟩ := p.update_fields t
  refine (wf_iff _).2 ⟨fun h0 => ?_, by rw [hd]; exact h2⟩
  rw [hr] at h0
  rw [update_noop (advances_false (.inl h0))]; exact h1 h0

/-! ### PC.SETPERIOD and PC.SETDUTY -/

@[simp] theorem PhaseClock.setPeriod_running (p : PhaseClock) (v : Time) : (p.setPeriod v).running = p.running := rfl
@[simp] theorem PhaseClock.setPeriod_duty (p : PhaseClock) (v : Time) : (p.setPeriod v).duty = p.duty := rfl
@[simp] theorem PhaseClock.setPeriod_period (p : PhaseClock) (v : Time) : (p.setPeriod v).period = v := rfl

theorem PhaseClock.wf_setPeriod {p : PhaseClock} (h : p.wf = true) (v : Time) : (p.setPeriod v).wf = true := h

theorem PhaseClock.setDuty_duty (p : PhaseClock) (d : Duty) : (p.setDuty d).duty.toNat = min d.toNat 65536 := by
  show (BitVec.ofNat 17 (min d.toNat phaseMax)).toNat = _
  rw [BitVec.toNat_ofNat, Nat.mod_eq_of_lt]
  simp only [phaseMax]; omega

theorem PhaseClock.wf_setDuty {p : PhaseClock} (h : p.wf = true) (d : Duty) : (p.setDuty d).wf = true :=
  (wf_iff _).2 ⟨((wf_iff p).1 h).1, by rw [setDuty_duty]; omega⟩

theorem PhaseClock.wf_atReset (running : Bool) : (PhaseClock.atReset running).wf = true :=
  (wf_iff _).2 ⟨fun _ => rfl, by cases running <;> decide⟩

end Sys2Proof.Machine
end

