-- ==== Sys2Proof/Laws/Decode.lean ====
section
/-! SUPPORT. The fields of a command word that the encoder built, the fields of a frame word, and the operand
readers of the decoder, read forwards and backwards. -/

namespace Sys2Proof

/-! ### Slices of a concatenation -/

theorem slice_above {n m : Nat} (x : BitVec n) (y : BitVec m) (start len : Nat) (h : m ≤ start) :
    (x ++ y).extractLsb' start len = x.extractLsb' (start - m) len :=
  BitVec.extractLsb'_append_eq_of_le h

theorem slice_below {n m : Nat} (x : BitVec n) (y : BitVec m) (start len : Nat) (h : start + len ≤ m) :
    (x ++ y).extractLsb' start len = y.extractLsb' start len :=
  BitVec.extractLsb'_append_eq_of_add_le h

/-! ### The fields of a packed word -/

@[simp] theorem opField_unitWord (op unit : BitVec 8) (x y : BitVec 32) : opField (unitWord op unit x y) = op := by
  rw [opField, unitWord, slice_below _ _ _ _ (by decide), BitVec.extractLsb'_eq_self]

@[simp] theorem unitField_unitWord (op unit : BitVec 8) (x y : BitVec 32) :
    unitField (unitWord op unit x y) = unit := by
  rw [unitField, unitWord, slice_above _ _ _ _ (by decide), slice_below _ _ _ _ (by decide),
    BitVec.extractLsb'_eq_self]

@[simp] theorem argField1_unitWord (op unit : BitVec 8) (x y : BitVec 32) :
    argField1 (unitWord op unit x y) = x := by
  rw [argField1, unitWord, slice_above _ _ _ _ (by decide), slice_above _ _ _ _ (by decide),
    slice_below _ _ _ _ (by decide), BitVec.extractLsb'_eq_self]

@[simp] theorem argField2_unitWord (op unit : BitVec 8) (x y : BitVec 32) :
    argField2 (unitWord op unit x y) = y := by
  rw [argField2, unitWord, slice_above _ _ _ _ (by decide), slice_above _ _ _ _ (by decide),
    slice_above _ _ _ _ (by decide), BitVec.extractLsb'_eq_self]

@[simp] theorem opField_frameCmdWord (op : BitVec 8) (f : FrameWord) : opField (frameCmdWord op f) = op := by
  rw [opField, frameCmdWord, slice_below _ _ _ _ (by decide), BitVec.extractLsb'_eq_self]

theorem restField_frameCmdWord (op : BitVec 8) (f : FrameWord) : restField (frameCmdWord op f) = 0#9 ++ f := by
  rw [restField, frameCmdWord, slice_above _ _ _ _ (by decide), BitVec.extractLsb'_eq_self]

@[simp] theorem frame_of_frameCmdWord (op : BitVec 8) (f : FrameWord) :
    (restField (frameCmdWord op f)).extractLsb' 0 63 = f := by
  rw [restField_frameCmdWord, slice_below _ _ _ _ (by decide), BitVec.extractLsb'_eq_self]

@[simp] theorem top_of_frameCmdWord (op : BitVec 8) (f : FrameWord) :
    (restField (frameCmdWord op f)).extractLsb' 63 9 = 0#9 := by
  rw [restField_frameCmdWord, slice_above _ _ _ _ (by decide), BitVec.extractLsb'_eq_self]

/-! ### The fields of a frame word -/

@[simp] theorem frameOfWord_now (f : Frame) : (frameOfWord (frameToWord f)).now = f.now := by
  show (frameToWord f).extractLsb' 31 32 = f.now
  rw [frameToWord, slice_above _ _ _ _ (by decide), slice_above _ _ _ _ (by decide),
    slice_above _ _ _ _ (by decide), slice_above _ _ _ _ (by decide), BitVec.extractLsb'_eq_self]

@[simp] theorem frameOfWord_modeRaw (f : Frame) : (frameOfWord (frameToWord f)).modeRaw = f.modeRaw := by
  show (frameToWord f).extractLsb' 21 10 = f.modeRaw
  rw [frameToWord, slice_above _ _ _ _ (by decide), slice_above _ _ _ _ (by decide),
    slice_above _ _ _ _ (by decide), slice_below _ _ _ _ (by decide), BitVec.extractLsb'_eq_self]

@[simp] theorem frameOfWord_rateRaw (f : Frame) : (frameOfWord (frameToWord f)).rateRaw = f.rateRaw := by
  show (frameToWord f).extractLsb' 11 10 = f.rateRaw
  rw [frameToWord, slice_above _ _ _ _ (by decide), slice_above _ _ _ _ (by decide),
    slice_below _ _ _ _ (by decide), BitVec.extractLsb'_eq_self]

@[simp] theorem frameOfWord_rangeRaw (f : Frame) : (frameOfWord (frameToWord f)).rangeRaw = f.rangeRaw := by
  show (frameToWord f).extractLsb' 1 10 = f.rangeRaw
  rw [frameToWord, slice_above _ _ _ _ (by decide), slice_below _ _ _ _ (by decide),
    BitVec.extractLsb'_eq_self]

@[simp] theorem frameOfWord_trig (f : Frame) : (frameOfWord (frameToWord f)).trig = f.trig := by
  show (frameToWord f).getLsbD 0 = f.trig
  rw [frameToWord, BitVec.getLsbD_append]
  simp

/-! ### Units and operands -/

@[simp] theorem knobOfUnit_unitOfKnob (k : KnobId) : knobOfUnit (unitOfKnob k) = .ok k := by
  cases k <;> rfl

@[simp] theorem curveOfUnit_unitOfCurve (c : CurveId) : curveOfUnit (unitOfCurve c) = .ok c := by
  cases c <;> rfl

@[simp] theorem clockOfUnit_unitOfClock (p : ClockId) : clockOfUnit (unitOfClock p) = .ok p := by
  cases p <;> rfl

/-- An operand of at most 32 bits is read back from its field. -/
theorem narrow_setWidth {n : Nat} (h : n ≤ 32) (x : BitVec n) : narrow n (x.setWidth 32) = .ok x := by
  have h32 : x.toNat < 2 ^ 32 := lt_of_lt_of_le x.isLt (Nat.pow_le_pow_right (by decide) h)
  have hx : (x.setWidth 32).toNat = x.toNat := by
    rw [BitVec.toNat_setWidth, Nat.mod_eq_of_lt h32]
  rw [narrow, if_pos (hx ▸ x.isLt), BitVec.setWidth_setWidth_of_le _ h, BitVec.setWidth_eq]

@[simp] theorem narrow_full (x : BitVec 32) : narrow 32 x = .ok x := by
  rw [narrow, if_pos x.isLt, BitVec.setWidth_eq]

@[simp] theorem whenZero_zero {n : Nat} {α : Type} (a : α) : whenZero (0#n) a = .ok a := if_pos rfl

/-- A legal bucket count is read back from its field, which holds it less one (log 7). -/
theorem narrow_bucketsField (nv : Buckets) (h : bucketsLegal nv = true) :
    (narrow 4 ((nv - 1#5).setWidth 32)).map bucketsOfField = .ok nv := by
  revert nv; decide

/-! ### The readers, backwards -/

/-- What a reader that succeeds tells of its parts. -/
theorem bind_eq_ok {α β ε : Type} {x : Except ε α} {f : α → Except ε β} {b : β} (h : x.bind f = .ok b) :
    ∃ a, x = .ok a ∧ f a = .ok b := by
  cases x with
  | error e => cases h
  | ok a => exact ⟨a, rfl, h⟩

theorem whenZero_eq_ok {n : Nat} {α : Type} {x : BitVec n} {a b : α} (h : whenZero x a = .ok b) :
    x = 0#n ∧ a = b := by
  unfold whenZero at h
  split at h
  · exact ⟨‹_›, by injection h⟩
  · cases h

theorem narrow_eq_ok {n : Nat} {x : BitVec 32} {y : BitVec n} (h : narrow n x = .ok y) :
    x = y.setWidth 32 := by
  unfold narrow at h
  split at h
  · rename_i hx
    injection h with h; subst h
    apply BitVec.eq_of_toNat_eq
    rw [BitVec.toNat_setWidth, BitVec.toNat_setWidth, Nat.mod_eq_of_lt hx, Nat.mod_eq_of_lt x.isLt]
  · cases h

theorem knobOfUnit_eq_ok {u : BitVec 8} {k : KnobId} (h : knobOfUnit u = .ok k) : u = unitOfKnob k := by
  unfold knobOfUnit at h
  split at h <;>
    first
    | (cases h; done)
    | (rename_i hu; injection h with h; subst h; exact BitVec.eq_of_toNat_eq hu)

theorem curveOfUnit_eq_ok {u : BitVec 8} {c : CurveId} (h : curveOfUnit u = .ok c) : u = unitOfCurve c := by
  unfold curveOfUnit at h
  split at h <;>
    first
    | (cases h; done)
    | (rename_i hu; injection h with h; subst h; exact BitVec.eq_of_toNat_eq hu)

theorem selectorOfUnit_eq_ok {u : BitVec 8} {c : CurveId} (h : selectorOfUnit u = .ok c) :
    c = .clkRate ∧ u = unitOfCurve c := by
  unfold selectorOfUnit at h
  split at h <;>
    first
    | (cases h; done)
    | (rename_i hu; injection h with h; subst h; exact ⟨rfl, BitVec.eq_of_toNat_eq hu⟩)

theorem clockOfUnit_eq_ok {u : BitVec 8} {p : ClockId} (h : clockOfUnit u = .ok p) : u = unitOfClock p := by
  unfold clockOfUnit at h
  split at h <;>
    first
    | (cases h; done)
    | (rename_i hu; injection h with h; subst h; exact BitVec.eq_of_toNat_eq hu)

/-- Every word is packed from its four fields. -/
theorem unitWord_fields (w : CmdWord) :
    unitWord (opField w) (unitField w) (argField1 w) (argField2 w) = w := by
  apply BitVec.eq_of_toNat_eq
  simp only [unitWord, opField, unitField, argField1, argField2, BitVec.toNat_append, BitVec.extractLsb'_toNat,
    Nat.shiftRight_eq_div_pow]
  have := w.isLt
  rw [← Nat.shiftLeft_add_eq_or_of_lt (by omega), ← Nat.shiftLeft_add_eq_or_of_lt (by omega),
    ← Nat.shiftLeft_add_eq_or_of_lt (by omega)]
  simp only [Nat.shiftLeft_eq]
  omega

/-- Every word is packed from its opid byte and the bits above it. -/
theorem restField_append_opField (w : CmdWord) : restField w ++ opField w = w := by
  apply BitVec.eq_of_toNat_eq
  simp only [restField, opField, BitVec.toNat_append, BitVec.extractLsb'_toNat, Nat.shiftRight_eq_div_pow]
  have := w.isLt
  rw [← Nat.shiftLeft_add_eq_or_of_lt (by omega)]
  simp only [Nat.shiftLeft_eq]
  omega

end Sys2Proof
end

