-- ==== Sys2Proof/Laws/Frames.lean ====
section
/-! SUPPORT. What replacing one unit leaves unchanged, runs of operations, and the invariant of a state taken apart. -/

namespace Sys2Proof.Machine

theorem sameExceptKnob_setKnob (s : State) (k : KnobId) (q : QuantizedKnob) (r : Result) :
    sameExceptKnob k s ((s.setKnob k q).withResult r) :=
  ⟨fun j h => by simp [State.knob_setKnob_of_ne s h], fun p => by simp, by simp, by simp [sameScalars]⟩

theorem sameExceptClock_setClock (s : State) (p : ClockId) (c : PhaseClock) (r : Result) :
    sameExceptClock p s ((s.setClock p c).withResult r) :=
  ⟨fun k => by simp, fun j h => by simp [State.clock_setClock_of_ne s h], by simp, by simp [sameScalars]⟩

theorem State.setKnob_self (s : State) (k : KnobId) : s.setKnob k (s.knob k) = s := by cases k <;> rfl

theorem State.setClock_self (s : State) (p : ClockId) : s.setClock p (s.clock p) = s := by cases p <;> rfl

theorem sameBehaviour_refl (m : ModeId) (s : State) : sameBehaviour m s s := by cases m <;> rfl

theorem sameBehaviour_trans {m : ModeId} {s t u : State} (h : sameBehaviour m s t) (h' : sameBehaviour m t u) :
    sameBehaviour m s u := by
  cases m <;> exact Eq.trans h' h

/-- A run whose first operation completes. -/
theorem execAll_cons {i : Instr} {is : List Instr} {s t : State} (h : exec i s = .next t) :
    execAll (i :: is) s = execAll is t := by
  simp [execAll, h]

/-- The invariant of a state: that of each knob and of each clock, and three facts more. -/
theorem State.wf_iff (s : State) : s.wf = true ↔
    (∀ k, (s.knob k).wf = true) ∧ (∀ p, (s.clock p).wf = true) ∧ s.bstMode.gates.toNat ≤ 254 ∧
    (s.outLevel = outLow ∨ s.outLevel = outMax) ∧ s.inReady = true := by
  simp only [State.wf, Bool.and_eq_true, Bool.or_eq_true, decide_eq_true_eq, beq_iff_eq]
  constructor
  · rintro ⟨⟨⟨⟨⟨⟨⟨⟨⟨⟨⟨⟨⟨⟨⟨a, b⟩, c⟩, d⟩, e⟩, f⟩, g⟩, h⟩, i⟩, j⟩, k⟩, l⟩, m⟩, n⟩, o⟩, p⟩
    exact ⟨fun x => by cases x <;> assumption, fun x => by cases x <;> assumption, h, o, p⟩
  · rintro ⟨hk, hp, h, o, p⟩
    exact ⟨⟨⟨⟨⟨⟨⟨⟨⟨⟨⟨⟨⟨⟨⟨hk .msMode, hk .clkRate⟩, hk .clkRange⟩, hp .clk⟩, hk .bstRate⟩, hk .bstRepeat⟩, hp .bst⟩, h⟩,
      hk .divRate⟩, hk .divRange⟩, hp .div⟩, hk .mulRate⟩, hk .mulRange⟩, hp .mul⟩, o⟩, p⟩

end Sys2Proof.Machine
end

