-- ==== Sys2Proof/Laws/Knob.lean ====
section
/-! SUPPORT. What the operations on one QuantizedKnob can do (rules R103, R108, R109), and that each keeps the invariant of
rule R22. -/

namespace Sys2Proof.Machine

/-! ### The invariant, in words -/

/-- The invariant of a knob taken apart. -/
theorem QuantizedKnob.wf_iff (q : QuantizedKnob) : q.wf = true ↔
    q.currentIndex.toNat < q.numValues.toNat ∧
    q.lowerBound = windowLower q.numValues q.hysteresis q.currentIndex ∧
    q.upperBound = windowUpper q.numValues q.hysteresis q.currentIndex := by
  constructor
  · intro h
    simp only [QuantizedKnob.wf, Bool.and_eq_true, decide_eq_true_eq, beq_iff_eq] at h
    obtain ⟨⟨⟨h2, h3⟩, h4⟩, -⟩ := h
    exact ⟨h2, h3, h4⟩
  · rintro ⟨h2, h3, h4⟩
    simp only [QuantizedKnob.wf, Bool.and_eq_true, decide_eq_true_eq, beq_iff_eq]
    exact ⟨⟨⟨h2, h3⟩, h4⟩, by rw [h3, h4]; exact windowLower_lt_windowUpper h2 _⟩

theorem QuantizedKnob.wf_index {q : QuantizedKnob} (h : q.wf = true) :
    q.currentIndex.toNat < q.numValues.toNat :=
  (q.wf_iff.1 h).1

theorem QuantizedKnob.wf_lower {q : QuantizedKnob} (h : q.wf = true) :
    q.lowerBound.toNat = q.currentIndex.toNat * bucketStep q.numValues - q.hysteresis.toNat := by
  obtain ⟨h2, h3, -⟩ := q.wf_iff.1 h
  rw [h3, windowLower_toNat h2]

theorem QuantizedKnob.wf_upper {q : QuantizedKnob} (h : q.wf = true) :
    q.upperBound.toNat =
      min (q.currentIndex.toNat * bucketStep q.numValues + bucketStep q.numValues + q.hysteresis.toNat) 1023 := by
  rw [(q.wf_iff.1 h).2.2, windowUpper_toNat]

theorem QuantizedKnob.wf_lower_lt_upper {q : QuantizedKnob} (h : q.wf = true) :
    q.lowerBound.toNat < q.upperBound.toNat := by
  obtain ⟨h2, h3, h4⟩ := q.wf_iff.1 h
  rw [h3, h4]; exact windowLower_lt_windowUpper h2 _

/-! ### A rewritten window -/

@[simp] theorem QuantizedKnob.atIndex_index (q : QuantizedKnob) (i : Index) : (q.atIndex i).currentIndex = i := rfl
@[simp] theorem QuantizedKnob.atIndex_numValues (q : QuantizedKnob) (i : Index) :
    (q.atIndex i).numValues = q.numValues := rfl
@[simp] theorem QuantizedKnob.atIndex_hysteresis (q : QuantizedKnob) (i : Index) :
    (q.atIndex i).hysteresis = q.hysteresis := rfl
@[simp] theorem QuantizedKnob.atIndex_lastRaw (q : QuantizedKnob) (i : Index) : (q.atIndex i).lastRaw = q.lastRaw := rfl
@[simp] theorem QuantizedKnob.atIndex_lower (q : QuantizedKnob) (i : Index) :
    (q.atIndex i).lowerBound = windowLower q.numValues q.hysteresis i := rfl
@[simp] theorem QuantizedKnob.atIndex_upper (q : QuantizedKnob) (i : Index) :
    (q.atIndex i).upperBound = windowUpper q.numValues q.hysteresis i := rfl

theorem QuantizedKnob.wf_atIndex {q : QuantizedKnob} {i : Index} (hi : i.toNat < q.numValues.toNat) :
    (q.atIndex i).wf = true :=
  (wf_iff _).2 ⟨hi, rfl, rfl⟩

/-! ### QK.UPDATE -/

theorem QuantizedKnob.inWindow_iff (q : QuantizedKnob) (raw : Raw) :
    q.inWindow raw = true ↔ q.lowerBound.toNat ≤ raw.toNat ∧ raw.toNat ≤ q.upperBound.toNat := by
  simp [QuantizedKnob.inWindow]

/-- Inside the window only `lastRaw` is written (rule R103). -/
theorem QuantizedKnob.update_inside {q : QuantizedKnob} {raw : Raw} (h : q.inWindow raw = true) :
    q.update raw = { q with lastRaw := raw } := by
  simp [QuantizedKnob.update, h]

/-- Outside the window the index is the reading's bucket and the window is rewritten (rule R103). -/
theorem QuantizedKnob.update_outside {q : QuantizedKnob} {raw : Raw} (h : q.inWindow raw = false) :
    q.update raw = { q.atIndex (bucketOf q.numValues raw) with lastRaw := raw } := by
  simp [QuantizedKnob.update, h]

@[simp] theorem QuantizedKnob.update_lastRaw (q : QuantizedKnob) (raw : Raw) : (q.update raw).lastRaw = raw := rfl

@[simp] theorem QuantizedKnob.update_numValues (q : QuantizedKnob) (raw : Raw) :
    (q.update raw).numValues = q.numValues := by
  cases h : q.inWindow raw <;> simp [QuantizedKnob.update, h]

@[simp] theorem QuantizedKnob.update_hysteresis (q : QuantizedKnob) (raw : Raw) :
    (q.update raw).hysteresis = q.hysteresis := by
  cases h : q.inWindow raw <;> simp [QuantizedKnob.update, h]

theorem QuantizedKnob.wf_withRaw {q : QuantizedKnob} (h : q.wf = true) (raw : Raw) :
    ({ q with lastRaw := raw } : QuantizedKnob).wf = true := h

/-- QK.UPDATE keeps the invariant of rule R22. -/
theorem QuantizedKnob.wf_update {q : QuantizedKnob} (h : q.wf = true) (raw : Raw) : (q.update raw).wf = true := by
  cases hw : q.inWindow raw
  · rw [update_outside hw]
    exact wf_withRaw (wf_atIndex (bucketOf_lt _ raw)) raw
  · rw [update_inside hw]; exact wf_withRaw h raw

/-! ### QK.CONFIG -/

@[simp] theorem QuantizedKnob.config_numValues (q : QuantizedKnob) (nv : BucketCount) (h : Raw) :
    (q.config nv h).numValues = nv := rfl
@[simp] theorem QuantizedKnob.config_hysteresis (q : QuantizedKnob) (nv : BucketCount) (h : Raw) :
    (q.config nv h).hysteresis = h := rfl
@[simp] theorem QuantizedKnob.config_lastRaw (q : QuantizedKnob) (nv : BucketCount) (h : Raw) :
    (q.config nv h).lastRaw = q.lastRaw := rfl

theorem QuantizedKnob.config_index (nv : BucketCount) (q : QuantizedKnob) (h : Raw) :
    (q.config nv h).currentIndex.toNat = min q.currentIndex.toNat (nv.toNat - 1) := by
  have := nv.bounds.2
  show (BitVec.ofNat 4 (min q.currentIndex.toNat (nv.toNat - 1))).toNat = _
  rw [BitVec.toNat_ofNat, Nat.mod_eq_of_lt]
  omega

/-- QK.CONFIG establishes the invariant of rule R22, whatever the knob was. -/
theorem QuantizedKnob.wf_config (nv : BucketCount) (q : QuantizedKnob) (h : Raw) : (q.config nv h).wf = true := by
  have h1 := nv.bounds.1
  have hi := config_index nv q h
  exact (wf_iff _).2 ⟨by rw [hi, config_numValues]; omega, rfl, rfl⟩

/-! ### Reset -/

/-- A knob after reset has the invariant of rule R22. -/
theorem QuantizedKnob.wf_atReset (n : BucketCount) (h : Raw) : (QuantizedKnob.atReset n h).wf = true :=
  (wf_iff _).2 ⟨n.bounds.1, rfl, rfl⟩

/-! ### Projections -/

/-- The clamped position inside the window (rule R108). -/
theorem QuantizedKnob.position_le {q : QuantizedKnob} (h : q.lowerBound.toNat < q.upperBound.toNat) :
    clamp q.lastRaw.toNat q.lowerBound.toNat q.upperBound.toNat - q.lowerBound.toNat ≤
      q.upperBound.toNat - q.lowerBound.toNat := by
  simp only [clamp]; omega

/-- QK.MAPINNERRAW onto a rising range, in natural numbers (rule R108). -/
theorem QuantizedKnob.mapInnerRaw_rising {q : QuantizedKnob} (h : q.lowerBound.toNat < q.upperBound.toNat) {a b : Time}
    (hab : a.toNat ≤ b.toNat) : (q.mapInnerRaw a b).toNat =
      a.toNat + (clamp q.lastRaw.toNat q.lowerBound.toNat q.upperBound.toNat - q.lowerBound.toNat) *
        (b.toNat - a.toNat) / (q.upperBound.toNat - q.lowerBound.toNat) :=
  project_rising (position_le h) hab

/-- QK.MAPINNERRAW onto a falling range, in natural numbers (rule R108). -/
theorem QuantizedKnob.mapInnerRaw_falling {q : QuantizedKnob} (h : q.lowerBound.toNat < q.upperBound.toNat) {a b : Time}
    (hab : b.toNat ≤ a.toNat) : (q.mapInnerRaw a b).toNat =
      a.toNat - (clamp q.lastRaw.toNat q.lowerBound.toNat q.upperBound.toNat - q.lowerBound.toNat) *
        (a.toNat - b.toNat) / (q.upperBound.toNat - q.lowerBound.toNat) :=
  project_falling (position_le h) hab

/-- QK.MAPINNERRAW as rule R108 writes it, and between its ends. -/
theorem QuantizedKnob.mapInnerRaw_toNat {q : QuantizedKnob} (h : q.lowerBound.toNat < q.upperBound.toNat) (a b : Time) :
    ((q.mapInnerRaw a b).toNat : Int) =
      a.toNat +
        Int.tdiv
          (((min (max q.lastRaw.toNat q.lowerBound.toNat) q.upperBound.toNat : Nat) - (q.lowerBound.toNat : Int)) *
            ((b.toNat : Int) - a.toNat))
          (q.upperBound.toNat - q.lowerBound.toNat) ∧
    min a.toNat b.toNat ≤ (q.mapInnerRaw a b).toNat ∧ (q.mapInnerRaw a b).toNat ≤ max a.toNat b.toNat := by
  obtain ⟨h1, h2⟩ := project_toNat (position_le h) a b
  refine ⟨?_, h2⟩
  have e1 : ((clamp q.lastRaw.toNat q.lowerBound.toNat q.upperBound.toNat - q.lowerBound.toNat : Nat) : Int) =
      (min (max q.lastRaw.toNat q.lowerBound.toNat) q.upperBound.toNat : Nat) - (q.lowerBound.toNat : Int) := by
    simp only [clamp]; omega
  have e2 : ((q.upperBound.toNat - q.lowerBound.toNat : Nat) : Int) = q.upperBound.toNat - q.lowerBound.toNat := by
    omega
  rw [e1, e2] at h1
  exact h1

end Sys2Proof.Machine
end

