-- ==== Sys2Proof/Laws/Modes.lean ====
section
/-! SUPPORT. What the step of each behaviour can do (rules R162, R168, R175): its knobs, its duty, and that its clock keeps
the invariant of rule R26; table reads inside a table. -/

namespace Sys2Proof.Machine

/-! ### Edges of the trigger -/

theorem trigRise_eq_true {trig prev : Bool} : trigRise trig prev = true ↔ trig = true ∧ prev = false := by
  simp [trigRise]

theorem trigRise_eq_false {trig prev : Bool} : trigRise trig prev = false ↔ trig = false ∨ prev = true := by
  cases trig <;> cases prev <;> simp [trigRise]

theorem trigFall_eq_true {trig prev : Bool} : trigFall trig prev = true ↔ trig = false ∧ prev = true := by
  simp [trigFall]

/-! ### Table reads -/

theorem clkBreakpoint_of_row {tb : Tables} {c j : Nat} {row : List Time} {v : Time} (hr : tb.clkCurve[c]? = some row)
    (hv : row[j]? = some v) : clkBreakpoint tb c j = v := by
  simp [clkBreakpoint, hr, hv]

theorem bstBreakpoint_of_entry {tb : Tables} {j : Nat} {v : Time} (h : tb.bstCurve[j]? = some v) :
    bstBreakpoint tb j = v := by
  simp [bstBreakpoint, h]

theorem repeatCount_of_entry {tb : Tables} {r : Nat} {v : RepeatCount} (h : tb.bstRepeat[r]? = some v) :
    repeatCount tb r = v := by
  simp [repeatCount, h]

theorem divRatio_of_row {tb : Tables} {t r : Nat} {row : List Ratio} {q : Ratio} (hr : tb.divRatio[t]? = some row)
    (hq : row[r]? = some q) : divRatio tb t r = q := by
  simp [divRatio, hr, hq]

theorem mulRatio_of_row {tb : Tables} {t r : Nat} {row : List Ratio} {q : Ratio} (hr : tb.mulRatio[t]? = some row)
    (hq : row[r]? = some q) : mulRatio tb t r = q := by
  simp [mulRatio, hr, hq]

/-! ### The four mode steps as operations -/

theorem exec_modeInstr (m : ModeId) (x : Forwarded) (s : State) :
    exec (modeInstr m x) s = .next ((s.runMode m x).withResult (.level ((s.runMode m x).modeOut m))) := by
  cases m <;> rfl

/-- A mode step leaves the other behaviours alone (rule R193). -/
theorem runMode_other {m j : ModeId} (h : j ≠ m) (x : Forwarded) (s : State) : sameBehaviour j s (s.runMode m x) := by
  cases m <;> cases j <;> first | exact absurd rfl h | rfl

@[simp] theorem State.runMode_config (s : State) (m : ModeId) (x : Forwarded) : (s.runMode m x).config = s.config := by
  cases m <;> rfl

@[simp] theorem State.runMode_input (s : State) (m : ModeId) (x : Forwarded) : (s.runMode m x).input = s.input := by
  cases m <;> rfl

@[simp] theorem State.runMode_kMode (s : State) (m : ModeId) (x : Forwarded) : (s.runMode m x).kMode = s.kMode := by
  cases m <;> rfl

/-! ### ClockMode -/

@[simp] theorem ClockMode.frameStep_knobs (tb : Tables) (x : Forwarded) (c : ClockMode) :
    (c.frameStep tb x).kRate.k = c.kRate.k.update x.rateRaw ∧
    (c.frameStep tb x).kRange = c.kRange.update x.rangeRaw ∧
    (c.frameStep tb x).kRate.nCurves = c.kRate.nCurves ∧
    (c.frameStep tb x).prevTrig = x.trig := ⟨rfl, rfl, rfl, rfl⟩

/-- The curve that a ClockMode step installs is the range knob's index (rule R162, lines 2 and 3). -/
theorem ClockMode.frameStep_curveSel (tb : Tables) (x : Forwarded) (c : ClockMode)
    (h : (c.kRange.update x.rangeRaw).currentIndex.toNat < c.kRate.nCurves.toNat) :
    (c.frameStep tb x).kRate.curveSel.toNat = (c.kRange.update x.rangeRaw).currentIndex.toNat :=
  CurveKnob.setCurve_curveSel ({ c.kRate with k := c.kRate.k.update x.rateRaw } : CurveKnob) h

/-- The clock after a ClockMode step: a new period, an update, and a sync on a trigger rise (rule R162). -/
theorem ClockMode.frameStep_clk (tb : Tables) (x : Forwarded) (c : ClockMode) :
    ∃ v : Time,
      (c.frameStep tb x).clk =
        if trigRise x.trig c.prevTrig then ((c.clk.setPeriod v).update x.now).sync 0#17
        else (c.clk.setPeriod v).update x.now :=
  ⟨(c.frameStep tb x).kRate.value tb, rfl⟩

theorem ClockMode.frameStep_duty (tb : Tables) (x : Forwarded) (c : ClockMode) :
    (c.frameStep tb x).clk.duty = c.clk.duty := by
  obtain ⟨v, h⟩ := c.frameStep_clk tb x
  have hu := ((c.clk.setPeriod v).update_fields x.now).2.1
  rw [h]; split
  · rw [(PhaseClock.sync_fields _ _).2.1, hu]; rfl
  · rw [hu]; rfl

theorem ClockMode.wf_frameStep {c : ClockMode} (h : c.clk.wf = true) (tb : Tables) (x : Forwarded) :
    (c.frameStep tb x).clk.wf = true := by
  obtain ⟨v, e⟩ := c.frameStep_clk tb x
  have hu := PhaseClock.wf_update (PhaseClock.wf_setPeriod h v) x.now
  rw [e]; split
  · exact PhaseClock.wf_sync hu _
  · exact hu

/-! ### BurstMode -/

/-- Counting a gate changes the clock, by a stop or not at all, and the gate count. -/
theorem BurstMode.countGate_fields (tb : Tables) (b : BurstMode) :
    (b.countGate tb).kRate = b.kRate ∧ (b.countGate tb).kRepeat = b.kRepeat ∧
    (b.countGate tb).prevTrig = b.prevTrig ∧
    ((b.countGate tb).clk = b.clk.stop ∨ (b.countGate tb).clk = b.clk) ∧
    (b.countGate tb).gates.toNat ≤ 254 := by
  simp only [BurstMode.countGate]
  split
  · exact ⟨rfl, rfl, rfl, .inl rfl, by simp⟩
  · have := (repeatCount tb b.kRepeat.currentIndex.toNat).bounds.2
    refine ⟨rfl, rfl, rfl, .inr rfl, ?_⟩
    simp only [BitVec.toNat_ofNat]; omega

/-- The parts of a burst before the gate is counted, without (`false`) and with (`true`) a trigger rise (rule R168). -/
def BurstMode.beforeCount (tb : Tables) (x : Forwarded) (b : BurstMode) (rise : Bool) : BurstMode :=
  let kRate := b.kRate.update x.rateRaw
  let clk := (b.clk.setPeriod (bstRateValue tb kRate)).update x.now
  ⟨kRate, b.kRepeat.update x.rangeRaw, if rise then clk.start x.now else clk, if rise then 0#8 else b.gates, x.trig⟩

/-- A burst step: the gate is counted when the update executed and the clock shows a falling edge (rule R168). -/
theorem BurstMode.frameStep_eq (tb : Tables) (x : Forwarded) (b : BurstMode) :
    b.frameStep tb x =
      if (b.clk.setPeriod (bstRateValue tb (b.kRate.update x.rateRaw))).advances &&
          (b.beforeCount tb x (trigRise x.trig b.prevTrig)).clk.isFalling then
        (b.beforeCount tb x (trigRise x.trig b.prevTrig)).countGate tb
      else b.beforeCount tb x (trigRise x.trig b.prevTrig) := by
  cases h : trigRise x.trig b.prevTrig
  · simp only [BurstMode.frameStep, h]; rfl
  · simp only [BurstMode.frameStep, h]; rfl

theorem BurstMode.frameStep_cases (tb : Tables) (x : Forwarded) (b : BurstMode) :
    b.frameStep tb x = b.beforeCount tb x (trigRise x.trig b.prevTrig) ∨
    b.frameStep tb x = (b.beforeCount tb x (trigRise x.trig b.prevTrig)).countGate tb := by
  rw [frameStep_eq]; split
  · exact .inr rfl
  · exact .inl rfl

theorem BurstMode.frameStep_knobs (tb : Tables) (x : Forwarded) (b : BurstMode) :
    (b.frameStep tb x).kRate = b.kRate.update x.rateRaw ∧
    (b.frameStep tb x).kRepeat = b.kRepeat.update x.rangeRaw ∧ (b.frameStep tb x).prevTrig = x.trig := by
  rcases b.frameStep_cases tb x with h | h <;> rw [h]
  · exact ⟨rfl, rfl, rfl⟩
  · obtain ⟨h1, h2, h3, -⟩ := (b.beforeCount tb x (trigRise x.trig b.prevTrig)).countGate_fields tb
    rw [h1, h2, h3]; exact ⟨rfl, rfl, rfl⟩

theorem BurstMode.beforeCount_duty (tb : Tables) (x : Forwarded) (b : BurstMode) (rise : Bool) :
    (b.beforeCount tb x rise).clk.duty = b.clk.duty := by
  have hu := fun v => ((b.clk.setPeriod v).update_fields x.now).2.1
  cases rise
  · exact hu _
  · exact hu _

theorem BurstMode.frameStep_duty (tb : Tables) (x : Forwarded) (b : BurstMode) :
    (b.frameStep tb x).clk.duty = b.clk.duty := by
  have h0 := b.beforeCount_duty tb x (trigRise x.trig b.prevTrig)
  rcases b.frameStep_cases tb x with h | h <;> rw [h]
  · exact h0
  · obtain ⟨-, -, -, h1 | h1, -⟩ := (b.beforeCount tb x (trigRise x.trig b.prevTrig)).countGate_fields tb
    · rw [h1, PhaseClock.stop_duty]; exact h0
    · rw [h1]; exact h0

theorem BurstMode.wf_frameStep {b : BurstMode} (h : b.clk.wf = true) (hg : b.gates.toNat ≤ 254) (tb : Tables)
    (x : Forwarded) : (b.frameStep tb x).clk.wf = true ∧ (b.frameStep tb x).gates.toNat ≤ 254 := by
  have hu := fun v => PhaseClock.wf_update (PhaseClock.wf_setPeriod h v) x.now
  have h0 : ∀ rise, (b.beforeCount tb x rise).clk.wf = true ∧ (b.beforeCount tb x rise).gates.toNat ≤ 254 := by
    intro rise
    cases rise
    · exact ⟨hu _, hg⟩
    · exact ⟨PhaseClock.wf_start (hu _) _, Nat.zero_le _⟩
  rcases b.frameStep_cases tb x with h' | h' <;> rw [h']
  · exact h0 _
  · obtain ⟨-, -, -, h1 | h1, h2⟩ := (b.beforeCount tb x (trigRise x.trig b.prevTrig)).countGate_fields tb
    · exact ⟨by rw [h1]; exact PhaseClock.wf_stop (h0 _).1, h2⟩
    · exact ⟨by rw [h1]; exact (h0 _).1, h2⟩

/-! ### The follower -/

/-- A follower step with its edge tests decided (rule R175): at most one of the two edges is seen. -/
theorem DivMulMode.frameStep_clk (period : Time → Ratio → Time) (ratio : Nat → Nat → Ratio) (x : Forwarded)
    (d : DivMulMode) :
    (trigRise x.trig d.prevIn = true →
      ∃ v, (d.frameStep period ratio x).clk = ((d.clk.update x.now).setPeriod v).sync 0#17) ∧
    (trigFall x.trig d.prevIn = true →
      (d.frameStep period ratio x).clk = (d.clk.update x.now).sync (d.clk.update x.now).duty) ∧
    (x.trig = d.prevIn → (d.frameStep period ratio x).clk = d.clk.update x.now) := by
  cases ht : x.trig <;> cases hp : d.prevIn <;>
    simp [DivMulMode.frameStep, DivMulMode.inputRise, trigRise, trigFall, ht, hp]
  exact ⟨_, rfl⟩

theorem DivMulMode.frameStep_knobs (period : Time → Ratio → Time) (ratio : Nat → Nat → Ratio) (x : Forwarded)
    (d : DivMulMode) :
    (d.frameStep period ratio x).kRate = d.kRate.update x.rateRaw ∧
    (d.frameStep period ratio x).kRange = d.kRange.update x.rangeRaw ∧ (d.frameStep period ratio x).prevIn = x.trig := by
  cases ht : x.trig <;> cases hp : d.prevIn <;>
    simp [DivMulMode.frameStep, DivMulMode.inputRise, trigRise, trigFall, ht, hp]

theorem DivMulMode.frameStep_duty (period : Time → Ratio → Time) (ratio : Nat → Nat → Ratio) (x : Forwarded)
    (d : DivMulMode) : (d.frameStep period ratio x).clk.duty = d.clk.duty := by
  obtain ⟨h1, h2, h3⟩ := d.frameStep_clk period ratio x
  have hu := (d.clk.update_fields x.now).2.1
  cases ht : x.trig <;> cases hp : d.prevIn
  · rw [h3 (by rw [ht, hp]), hu]
  · rw [h2 (by simp [trigFall, ht, hp]), (PhaseClock.sync_fields _ _).2.1, hu]
  · obtain ⟨v, h⟩ := h1 (by simp [trigRise, ht, hp])
    rw [h, (PhaseClock.sync_fields _ _).2.1, PhaseClock.setPeriod_duty, hu]
  · rw [h3 (by rw [ht, hp]), hu]

theorem DivMulMode.wf_frameStep {d : DivMulMode} (h : d.clk.wf = true) (period : Time → Ratio → Time)
    (ratio : Nat → Nat → Ratio) (x : Forwarded) : (d.frameStep period ratio x).clk.wf = true := by
  obtain ⟨h1, h2, h3⟩ := d.frameStep_clk period ratio x
  have hu := PhaseClock.wf_update h x.now
  cases ht : x.trig <;> cases hp : d.prevIn
  · rw [h3 (by rw [ht, hp])]; exact hu
  · rw [h2 (by simp [trigFall, ht, hp])]; exact PhaseClock.wf_sync hu _
  · obtain ⟨v, e⟩ := h1 (by simp [trigRise, ht, hp])
    rw [e]; exact PhaseClock.wf_sync (PhaseClock.wf_setPeriod hu v) _
  · rw [h3 (by rw [ht, hp])]; exact hu

end Sys2Proof.Machine
end

