-- ==== Sys2Proof/Laws/PerInstr.lean ====
section
/-! SUPPORT. Statements made for every operation, one lemma per constructor of `Instr`. -/

namespace Sys2Proof.Laws

/-- The opid that rule R87 gives an operation. -/
def OpcodeByte.opid : Instr → Nat
  | .qkUpdate _ _ => 0x00
  | .qkGetIndex _ => 0x01
  | .qkGetRaw _ => 0x02
  | .qkMapIndex _ _ _ => 0x03
  | .qkMapInnerRaw _ _ _ => 0x04
  | .qkConfig _ _ _ => 0x05
  | .ckUpdate _ _ => 0x08
  | .ckSetCurve _ _ => 0x09
  | .ckGetValue _ => 0x0A
  | .pcStart _ _ => 0x10
  | .pcStop _ => 0x11
  | .pcSync _ _ => 0x12
  | .pcUpdate _ _ => 0x13
  | .pcSetPeriod _ _ => 0x14
  | .pcSetDuty _ _ => 0x15
  | .pcGetState _ => 0x16
  | .pcIsRising _ => 0x17
  | .pcIsFalling _ => 0x18
  | .reset => 0x1A
  | .frame _ => 0x1B
  | .modeClock _ => 0x1C
  | .modeBurst _ => 0x1D
  | .modeDivide _ => 0x1E
  | .modeMultiply _ => 0x1F

/-- The lowest byte of an operation's word is its opid of rule R87. -/
def OpcodeByte.Statement (i : Instr) : Prop := (opField (encode i)).toNat = OpcodeByte.opid i

theorem OpcodeByte.qkUpdate (k : KnobId) (raw : Raw) : Statement (.qkUpdate k raw) := by
  simp [Statement, encode, opid]

theorem OpcodeByte.qkGetIndex (k : KnobId) : Statement (.qkGetIndex k) := by
  simp [Statement, encode, opid]

theorem OpcodeByte.qkGetRaw (k : KnobId) : Statement (.qkGetRaw k) := by
  simp [Statement, encode, opid]

theorem OpcodeByte.qkMapIndex (k : KnobId) (a b : Time) : Statement (.qkMapIndex k a b) := by
  simp [Statement, encode, opid]

theorem OpcodeByte.qkMapInnerRaw (k : KnobId) (a b : Time) : Statement (.qkMapInnerRaw k a b) := by
  simp [Statement, encode, opid]

theorem OpcodeByte.qkConfig (k : KnobId) (nv : Buckets) (hyst : Raw) : Statement (.qkConfig k nv hyst) := by
  simp [Statement, encode, opid]

theorem OpcodeByte.ckUpdate (c : CurveId) (raw : Raw) : Statement (.ckUpdate c raw) := by
  simp [Statement, encode, opid]

theorem OpcodeByte.ckSetCurve (c : CurveId) (sel : Index) : Statement (.ckSetCurve c sel) := by
  simp [Statement, encode, opid]

theorem OpcodeByte.ckGetValue (c : CurveId) : Statement (.ckGetValue c) := by
  simp [Statement, encode, opid]

theorem OpcodeByte.pcStart (p : ClockId) (t : Time) : Statement (.pcStart p t) := by
  simp [Statement, encode, opid]

theorem OpcodeByte.pcStop (p : ClockId) : Statement (.pcStop p) := by
  simp [Statement, encode, opid]

theorem OpcodeByte.pcSync (p : ClockId) (target : Duty) : Statement (.pcSync p target) := by
  simp [Statement, encode, opid]

theorem OpcodeByte.pcUpdate (p : ClockId) (t : Time) : Statement (.pcUpdate p t) := by
  simp [Statement, encode, opid]

theorem OpcodeByte.pcSetPeriod (p : ClockId) (period : Time) : Statement (.pcSetPeriod p period) := by
  simp [Statement, encode, opid]

theorem OpcodeByte.pcSetDuty (p : ClockId) (duty : Duty) : Statement (.pcSetDuty p duty) := by
  simp [Statement, encode, opid]

theorem OpcodeByte.pcGetState (p : ClockId) : Statement (.pcGetState p) := by
  simp [Statement, encode, opid]

theorem OpcodeByte.pcIsRising (p : ClockId) : Statement (.pcIsRising p) := by
  simp [Statement, encode, opid]

theorem OpcodeByte.pcIsFalling (p : ClockId) : Statement (.pcIsFalling p) := by
  simp [Statement, encode, opid]

theorem OpcodeByte.reset : Statement .reset := by
  simp [Statement, encode, opid, opField]

theorem OpcodeByte.frame (f : Frame) : Statement (.frame f) := by
  simp [Statement, encode, opid]

theorem OpcodeByte.modeClock (x : Forwarded) : Statement (.modeClock x) := by
  simp [Statement, encode, opid]

theorem OpcodeByte.modeBurst (x : Forwarded) : Statement (.modeBurst x) := by
  simp [Statement, encode, opid]

theorem OpcodeByte.modeDivide (x : Forwarded) : Statement (.modeDivide x) := by
  simp [Statement, encode, opid]

theorem OpcodeByte.modeMultiply (x : Forwarded) : Statement (.modeMultiply x) := by
  simp [Statement, encode, opid]

end Sys2Proof.Laws
end

