-- ==== Sys2Proof/Tests/Slice0.lean ====
section
/-! SUPPORT. Tests. The expected values are those of 95_test_vectors.md and of the rules' worked examples, never the
model's own answers. The last part gives, for each obligation with hypotheses, values that meet them together. -/

namespace Sys2Proof.Tests

open Sys2Proof Sys2Proof.Machine

/-! ### Helpers -/

/-- The state after an operation, or the state before it where there is none. -/
def after (i : Instr) (s : State) : State :=
  match exec i s with
  | .next t => t
  | _ => s

/-- What an operation returns. -/
def returned (i : Instr) (s : State) : Result := (after i s).result

/-- A knob with the given configuration, after these readings from reset. -/
def knobAfter (n : Buckets) (h : Margin) (raws : List Raw) (legal : bucketsLegal n = true := by decide) : QuantizedKnob :=
  raws.foldl QuantizedKnob.update (.atReset ⟨n, legal⟩ h)

/-- The index, the window and the last reading of a knob. -/
def view (q : QuantizedKnob) : Nat × Nat × Nat × Nat :=
  (q.currentIndex.toNat, q.lowerBound.toNat, q.upperBound.toNat, q.lastRaw.toNat)

/-- The reset state with one knob replaced. -/
def withKnob (k : KnobId) (q : QuantizedKnob) : State := State.reset.setKnob k q

/-- A Running clock with duty 32768. -/
def clockOf (period phase anchor observed : Nat) (previous : Bool) : PhaseClock where
  period := BitVec.ofNat 32 period
  duty := 32768#17
  phase := BitVec.ofNat 16 phase
  running := true
  previousState := previous
  lastRisingEdgeTime := BitVec.ofNat 32 anchor
  lastObservedTime := BitVec.ofNat 32 observed

/-- The reset state with clock `CLK.clk` replaced. -/
def withClk (p : PhaseClock) : State := State.reset.setClock .clk p

/-- Phase, anchor, last observed time and previous state of `CLK.clk`. -/
def clkView (s : State) : Nat × Nat × Nat × Bool :=
  (s.clkMode.clk.phase.toNat, s.clkMode.clk.lastRisingEdgeTime.toNat, s.clkMode.clk.lastObservedTime.toNat,
    s.clkMode.clk.previousState)

/-- The four operands of a mode step. -/
def fwd (now rate range : Nat) (trig : Bool) : Forwarded :=
  ⟨BitVec.ofNat 32 now, BitVec.ofNat 10 rate, BitVec.ofNat 10 range, trig⟩

/-! ### Parameters -/

/-- D2, D4, D6: the ranges are those of the widths. -/
theorem test_parameters_agree :
    Parameters.hardware.range = 2 ^ Parameters.hardware.rawW ∧
    Parameters.hardware.rangeMax = 2 ^ Parameters.hardware.rawW - 1 ∧
    Parameters.hardware.phaseMax = 2 ^ Parameters.hardware.phaseW ∧
    Parameters.hardware.outMax = 2 ^ Parameters.hardware.outW - 1 ∧
    Parameters.hardware.nvMax = 2 ^ Parameters.hardware.idxW := by decide

/-! ### Well-formedness: each check refuses an ill-formed term -/

theorem test_wf_refuses_nv_0 : (Instr.qkConfig .msMode 0#5 5#10).wf = false := by decide
theorem test_wf_refuses_nv_17 : (Instr.qkConfig .msMode 17#5 5#10).wf = false := by decide
theorem test_wf_refuses_selector_of_bstRate : (Instr.ckSetCurve .bstRate 1#4).wf = false := by decide
theorem test_wf_accepts_nv_16 : (Instr.qkConfig .msMode 16#5 5#10).wf = true := by decide

/-! ### Decoding: one word for each operation, the opid as rule R87 has it, the operands by the layout of log 6 -/

theorem test_decode_qkUpdate :
    decode (0x00000000#32 ++ 0x00000106#32 ++ 0x02#8 ++ 0b00000000#8) = .ok (.qkUpdate .clkRange 262#10) := by decide
theorem test_decode_qkGetIndex :
    decode (0x00000000#32 ++ 0x00000000#32 ++ 0x04#8 ++ 0b00000001#8) = .ok (.qkGetIndex .bstRepeat) := by decide
theorem test_decode_qkGetRaw :
    decode (0x00000000#32 ++ 0x00000000#32 ++ 0x08#8 ++ 0b00000010#8) = .ok (.qkGetRaw .mulRange) := by decide
theorem test_decode_qkMapIndex :
    decode (0xFFFFFFFF#32 ++ 0x0000000A#32 ++ 0x05#8 ++ 0b00000011#8) =
      .ok (.qkMapIndex .divRate 10#32 0xFFFFFFFF#32) := by decide
theorem test_decode_qkMapInnerRaw :
    decode (0x000003E8#32 ++ 0x00000000#32 ++ 0x03#8 ++ 0b00000100#8) =
      .ok (.qkMapInnerRaw .bstRate 0#32 1000#32) := by decide
theorem test_decode_qkConfig :
    decode (0x00000032#32 ++ 0x0000000F#32 ++ 0x07#8 ++ 0b00000101#8) = .ok (.qkConfig .mulRate 16#5 50#10) := by decide
theorem test_decode_ckUpdate :
    decode (0x00000000#32 ++ 0x000003FF#32 ++ 0x01#8 ++ 0b00001000#8) = .ok (.ckUpdate .bstRate 1023#10) := by decide
theorem test_decode_ckSetCurve :
    decode (0x00000000#32 ++ 0x00000002#32 ++ 0x00#8 ++ 0b00001001#8) = .ok (.ckSetCurve .clkRate 2#4) := by decide
theorem test_decode_ckGetValue :
    decode (0x00000000#32 ++ 0x00000000#32 ++ 0x01#8 ++ 0b00001010#8) = .ok (.ckGetValue .bstRate) := by decide
theorem test_decode_pcStart :
    decode (0x00000000#32 ++ 0x80000001#32 ++ 0x01#8 ++ 0b00010000#8) = .ok (.pcStart .bst 0x80000001#32) := by decide
theorem test_decode_pcStop :
    decode (0x00000000#32 ++ 0x00000000#32 ++ 0x02#8 ++ 0b00010001#8) = .ok (.pcStop .div) := by decide
theorem test_decode_pcSync :
    decode (0x00000000#32 ++ 0x00010000#32 ++ 0x03#8 ++ 0b00010010#8) = .ok (.pcSync .mul 65536#17) := by decide
theorem test_decode_pcUpdate :
    decode (0x00000000#32 ++ 0x000004B0#32 ++ 0x00#8 ++ 0b00010011#8) = .ok (.pcUpdate .clk 1200#32) := by decide
theorem test_decode_pcSetPeriod :
    decode (0x00000000#32 ++ 0x00000190#32 ++ 0x00#8 ++ 0b00010100#8) = .ok (.pcSetPeriod .clk 400#32) := by decide
theorem test_decode_pcSetDuty :
    decode (0x00000000#32 ++ 0x00011170#32 ++ 0x00#8 ++ 0b00010101#8) = .ok (.pcSetDuty .clk 70000#17) := by decide
theorem test_decode_pcGetState :
    decode (0x00000000#32 ++ 0x00000000#32 ++ 0x01#8 ++ 0b00010110#8) = .ok (.pcGetState .bst) := by decide
theorem test_decode_pcIsRising :
    decode (0x00000000#32 ++ 0x00000000#32 ++ 0x02#8 ++ 0b00010111#8) = .ok (.pcIsRising .div) := by decide
theorem test_decode_pcIsFalling :
    decode (0x00000000#32 ++ 0x00000000#32 ++ 0x03#8 ++ 0b00011000#8) = .ok (.pcIsFalling .mul) := by decide
theorem test_decode_reset :
    decode (0x00000000#32 ++ 0x00000000#32 ++ 0x00#8 ++ 0b00011010#8) = .ok .reset := by decide

/-- The frame word is that of rule R191's worked example. -/
theorem test_decode_frame :
    decode (0#9 ++ 0x0000007D001FFFFE#63 ++ 0b00011011#8) =
      .ok (.frame ⟨250#32, 0#10, 1023#10, 1023#10, false⟩) := by decide

theorem test_decode_modeClock :
    decode (0#9 ++ 0x0000007D001FFFFE#63 ++ 0b00011100#8) = .ok (.modeClock (fwd 250 1023 1023 false)) := by decide

/-- The frame word of program P4's third frame, its `mode_raw` (bits 30..21) zero. -/
theorem test_decode_modeBurst :
    decode (0#9 ++ 0x000003E8001FFB85#63 ++ 0b00011101#8) = .ok (.modeBurst (fwd 2000 1023 450 true)) := by decide

/-- The frame word of program P3's seventh frame, its `mode_raw` (bits 30..21) zero. -/
theorem test_decode_modeDivide :
    decode (0#9 ++ 0x000007D000064001#63 ++ 0b00011110#8) = .ok (.modeDivide (fwd 4000 200 0 true)) := by decide

theorem test_decode_modeMultiply :
    decode (0#9 ++ 0x000007D000064001#63 ++ 0b00011111#8) = .ok (.modeMultiply (fwd 4000 200 0 true)) := by decide

/-- The eight unassigned opids of rule R88 (c), other bits of the word set or not. -/
theorem test_decode_rejects_unassigned :
    decode 0x06#80 = .error (.unassignedOpid 0x06) ∧ decode 0x07#80 = .error (.unassignedOpid 0x07) ∧
    decode 0x0B#80 = .error (.unassignedOpid 0x0B) ∧ decode 0x0C#80 = .error (.unassignedOpid 0x0C) ∧
    decode 0x0D#80 = .error (.unassignedOpid 0x0D) ∧ decode 0x0E#80 = .error (.unassignedOpid 0x0E) ∧
    decode 0xFFFFFFFFFFFFFFFFFF0F#80 = .error (.unassignedOpid 0x0F) ∧
    decode 0x19#80 = .error (.unassignedOpid 0x19) := by decide

theorem test_decode_rejects_the_rest :
    decode 0x0900#80 = .error .noSuchUnit ∧ decode 0x0109#80 = .error .noSelector ∧
    decode 0x20#80 = .error .reservedBits ∧
    decode 0x8000000000000000001B#80 = .error .reservedBits ∧ decode 0x040000#80 = .ok (.qkUpdate .msMode 4#10) ∧
    decode 0x04000000#80 = .error .reservedBits := by decide

/-! ### The frame word: V-MS2 -/

theorem test_frameWord_single_bits :
    frameToWord ⟨0, 0, 0, 0, true⟩ = 0x0000000000000001#63 ∧ frameToWord ⟨0, 0, 0, 1, false⟩ = 0x0000000000000002#63 ∧
    frameToWord ⟨0, 0, 1, 0, false⟩ = 0x0000000000000800#63 ∧
    frameToWord ⟨0, 1, 0, 0, false⟩ = 0x0000000000200000#63 ∧
    frameToWord ⟨1, 0, 0, 0, false⟩ = 0x0000000080000000#63 := by decide

theorem test_frameWord_wrap :
    frameOfWord 0x7FFFFC184B064001#63 = ⟨4294965296#32, 600#10, 200#10, 0#10, true⟩ := by decide

/-! ### QuantizedKnob: V-QK1 to V-QK3 -/

theorem test_qkUpdate_recomputes :
    view ((after (.qkUpdate .msMode 262#10) (withKnob .msMode (knobAfter 4#5 5#10 [0#10, 261#10]))).knob .msMode) =
      (1, 251, 517, 262) := by decide

theorem test_qkUpdate_top_bucket_above_window :
    view ((after (.qkUpdate .divRange 1023#10) (withKnob .divRange (knobAfter 5#5 0#10 []))).knob .divRange) =
      (4, 816, 1020, 1023) := by decide

theorem test_qkGetIndex :
    returned (.qkGetIndex .msMode) (withKnob .msMode (knobAfter 4#5 5#10 [262#10])) = .index 1#4 := by decide

theorem test_qkGetRaw :
    returned (.qkGetRaw .msMode) (withKnob .msMode (knobAfter 4#5 5#10 [262#10])) = .raw 262#10 := by decide

theorem test_qkMapIndex_descending :
    returned (.qkMapIndex .clkRate 100#32 0#32) (withKnob .clkRate (knobAfter 4#5 5#10 [774#10])) = .value 25#32 := by
  decide

theorem test_qkMapInnerRaw_rounds_toward_zero :
    returned (.qkMapInnerRaw .clkRate 1000#32 0#32) (withKnob .clkRate (knobAfter 4#5 5#10 [600#10])) =
      .value 651#32 := by decide

theorem test_qkMapInnerRaw_clamps_reading :
    returned (.qkMapInnerRaw .mulRate 0#32 1000#32) (withKnob .mulRate (knobAfter 5#5 0#10 [1023#10])) =
      .value 1000#32 := by decide

theorem test_qkConfig_clamps_index :
    view ((after (.qkConfig .bstRepeat 4#5 5#10) (withKnob .bstRepeat (knobAfter 8#5 5#10 [1000#10]))).knob .bstRepeat) =
      (3, 763, 1023, 1000) := by decide

theorem test_qkConfig_keeps_index :
    view ((after (.qkConfig .bstRepeat 4#5 10#10) (withKnob .bstRepeat (knobAfter 8#5 5#10 [300#10]))).knob .bstRepeat) =
      (2, 502, 778, 300) := by decide

/-! ### CurveKnob: V-CK1, V-CK2, S4 -/

theorem test_ckUpdate :
    view ((after (.ckUpdate .clkRate 600#10) State.reset).knob .clkRate) = (2, 507, 773, 600) := by decide

theorem test_ckSetCurve_then_value :
    returned (.ckGetValue .clkRate)
      (after (.ckSetCurve .clkRate 2#4) (withKnob .clkRate (knobAfter 4#5 5#10 [600#10]))) = .value 6602#32 := by decide

theorem test_ckGetValue_clkRate :
    returned (.ckGetValue .clkRate) (withKnob .clkRate (knobAfter 4#5 5#10 [100#10])) = .value 6467433#32 := by decide

theorem test_ckGetValue_bstRate :
    returned (.ckGetValue .bstRate) (withKnob .bstRate (knobAfter 1#5 0#10 [512#10])) = .value 254761#32 := by decide

/-! ### PhaseClock: V-PC1 to V-PC3 -/

theorem test_pcStart :
    clkView (after (.pcStart .clk 1234#32) (withClk (clockOf 1000 19660 5 900 true))) = (0, 1234, 1234, true) := by decide

theorem test_pcStop :
    (after (.pcStop .clk) (withClk (clockOf 1000 65535 501 1500 false))).clkMode.clk =
      { clockOf 1000 0 501 1500 false with running := false } := by decide

theorem test_pcSync_halfway :
    clkView (after (.pcSync .clk 32768#17) (withClk (clockOf 1000 0 1500 1500 true))) = (32768, 1000, 1500, true) := by
  decide

theorem test_pcSync_clamps_target_and_wraps_anchor :
    clkView (after (.pcSync .clk 65536#17) (withClk (clockOf 1000 0 0 100 false))) =
      (65535, 4294966397, 100, false) := by decide

theorem test_pcUpdate_rising_edge_reanchors :
    clkView (after (.pcUpdate .clk 1200#32) (withClk (clockOf 1000 58982 0 900 false))) = (13107, 1200, 1200, false) ∧
    returned (.pcUpdate .clk 1200#32) (withClk (clockOf 1000 58982 0 900 false)) = .bit true := by decide

theorem test_pcUpdate_across_timestamp_wrap :
    clkView (after (.pcUpdate .clk 256#32) (withClk (clockOf 1000 0 4294967040 0 false))) =
      (33554, 4294967040, 256, true) := by decide

theorem test_pcSetPeriod :
    clkView (after (.pcUpdate .clk 900#32) (after (.pcSetPeriod .clk 400#32) (withClk (clockOf 1000 0 0 0 false)))) =
      (16384, 0, 900, true) := by decide

theorem test_pcSetDuty_saturates :
    (after (.pcSetDuty .clk 70000#17) (withClk (clockOf 1000 19660 0 300 false))).clkMode.clk.duty = 65536#17 := by decide

theorem test_pcGetState :
    returned (.pcGetState .clk) (withClk (clockOf 1000 19660 0 300 true)) = .bit true ∧
    returned (.pcGetState .bst) State.reset = .bit false := by decide

theorem test_pcIsRising :
    returned (.pcIsRising .clk) (withClk (clockOf 1000 13107 1200 1200 false)) = .bit true := by decide

theorem test_pcIsFalling :
    returned (.pcIsFalling .clk) (withClk (clockOf 1000 39321 0 600 true)) = .bit true := by decide

/-! ### Mode steps: rule R162's example, V-BST1, V-DM1, V-DM2 -/

theorem test_modeClock_example :
    returned (.modeClock (fwd 250 1023 1023 false)) State.reset = .level 255#8 ∧
    (after (.modeClock (fwd 250 1023 1023 false)) State.reset).clkMode.clk.period = 2000#32 ∧
    (after (.modeClock (fwd 250 1023 1023 false)) State.reset).clkMode.clk.phase = 8192#16 := by decide

theorem test_modeBurst_trigger_starts :
    returned (.modeBurst (fwd 2000 1023 450 true)) State.reset = .level 255#8 ∧
    (after (.modeBurst (fwd 2000 1023 450 true)) State.reset).bstMode.clk.lastRisingEdgeTime = 2000#32 := by decide

/-- A burst of one gate: the fall due at 5000 stops the clock (V-BST1, first line). -/
theorem test_modeBurst_last_gate_stops :
    (after (.modeBurst (fwd 5000 1023 0 true)) (after (.modeBurst (fwd 0 1023 0 true)) State.reset)).bstMode.clk.running =
      false ∧
    returned (.modeBurst (fwd 5000 1023 0 true)) (after (.modeBurst (fwd 0 1023 0 true)) State.reset) = .level 0#8 := by
  decide

theorem test_modeDivide_first_rise :
    (after (.modeDivide (fwd 1000 200 0 true)) State.reset).divMode.clk.period = 2000#32 ∧
    (after (.modeDivide (fwd 1000 200 0 true)) State.reset).divMode.lastInRise = 1000#32 ∧
    returned (.modeDivide (fwd 1000 200 0 true)) State.reset = .level 255#8 := by decide

theorem test_modeMultiply_fall :
    returned (.modeMultiply (fwd 2000 200 0 false)) (after (.modeMultiply (fwd 1000 200 0 true)) State.reset) =
      .level 0#8 ∧
    (after (.modeMultiply (fwd 2000 200 0 false))
      (after (.modeMultiply (fwd 1000 200 0 true)) State.reset)).mulMode.clk.lastRisingEdgeTime = 1750#32 := by decide

theorem test_followerPeriod :
    followerPeriod false 4000#32 { num := 3#8, den := 2#8 } = 2666#32 ∧
    followerPeriod true 4000#32 { num := 3#8, den := 2#8 } = 6000#32 ∧
    followerPeriod false 4294967295#32 { num := 1#8, den := 255#8 } = 4294967041#32 := by decide

/-! ### FRAME, RESET and the ports -/

theorem test_frame_example :
    (after (.frame ⟨250#32, 0#10, 1023#10, 1023#10, false⟩) State.reset).outLevel = 255#8 ∧
    (after (.frame ⟨250#32, 0#10, 1023#10, 1023#10, false⟩) State.reset).outValid = true := by decide

/-- V-MS1, frame 8: the reading 518 selects index 2, the divide behaviour. -/
theorem test_frame_selects_divide :
    (after (.frame ⟨8000#32, 518#10, 0#10, 0#10, true⟩) State.reset).divMode.prevIn = true ∧
    (after (.frame ⟨8000#32, 518#10, 0#10, 0#10, true⟩) State.reset).clkMode = State.reset.clkMode := by decide

theorem test_reset_after_history :
    after .reset (after (.frame ⟨8000#32, 518#10, 900#10, 900#10, true⟩) State.reset) = State.reset := by decide

theorem test_trace_expands :
    traceFrames 4294967000#32 200#32 3 0#10 1#10 2#10 false =
      [⟨4294967000#32, 0#10, 1#10, 2#10, false⟩, ⟨4294967200#32, 0#10, 1#10, 2#10, false⟩,
        ⟨104#32, 0#10, 1#10, 2#10, false⟩] := by decide

theorem test_program_presents_edges :
    (State.reset.withProgram [.reset, .frame ⟨1#32, 2#10, 3#10, 4#10, true⟩]).input =
      [resetEdge, frameEdge ⟨1#32, 2#10, 3#10, 4#10, true⟩] := by decide

/-! ### Witnesses: values that meet the hypotheses of the obligations

Each is named after its obligation. Where an obligation has several clauses, there is a value for each, at the ends of its
range. -/

/-- A knob of four buckets at index 1, window `[251, 517]`. -/
def knob1 : QuantizedKnob := knobAfter 4#5 5#10 [262#10]

/-- The reset state with `MS.kMode` at index 1. -/
def state1 : State := withKnob .msMode knob1

theorem witness_DecodeEncodeRoundTrip :
    (Instr.qkConfig .mulRange 1#5 1023#10).wf = true ∧ (Instr.qkConfig .mulRange 16#5 0#10).wf = true ∧
    (Instr.ckSetCurve .clkRate 15#4).wf = true := by decide

theorem witness_DecodedWordIsItsEncoding : decode 0x106020500#80 = .error .reservedBits ∧
    decode 0x3FF0000#80 = .ok (.qkUpdate .msMode 1023#10) := by decide

theorem witness_EveryFrameLegalAndUnassignedOpidsRejected :
    (opField 0x06#80).toNat = 0x06 ∧ (opField 0x07#80).toNat = 0x07 ∧ (opField 0x0B#80).toNat = 0x0B ∧
    (opField 0x0C#80).toNat = 0x0C ∧ (opField 0x0D#80).toNat = 0x0D ∧ (opField 0x0E#80).toNat = 0x0E ∧
    (opField 0xFFFFFFFFFFFFFFFFFF0F#80).toNat = 0x0F ∧ (opField 0x19#80).toNat = 0x19 := by decide

theorem witness_StepRunsDecodedInstruction :
    (State.reset.present (.word 0x1A#80)).input = .word 0x1A#80 :: [] ∧ decode 0x1A#80 = .ok .reset := by decide

theorem witness_FetchedTableWordRuns : decodeTableWord 8 0x1A = some .reset := by decide

theorem witness_ClockEdgeAcceptsOrResets :
    (State.reset.present resetEdge).input = resetEdge :: [] ∧
    (State.reset.present (frameEdge ⟨0, 0, 0, 0, false⟩)).input = frameEdge ⟨0, 0, 0, 0, false⟩ :: [] ∧
    (State.reset.present (frameEdge ⟨0, 0, 0, 0, false⟩)).inReady = true ∧
    (State.reset.present (.edge ⟨false, false, 0, 0, 0, 0, false⟩)).input =
      .edge ⟨false, false, 0, 0, 0, 0, false⟩ :: [] ∧
    ({ State.reset.present (frameEdge ⟨0, 0, 0, 0, false⟩) with inReady := false } : State).inReady = false := by decide

theorem witness_IdleHoldsState : State.reset.input = [] := rfl

theorem witness_EveryOperationCompletes :
    (Instr.qkConfig .msMode 4#5 5#10).wf = true ∧ decode 0x1A#80 = .ok .reset := by decide

theorem witness_IllFormedOperationsAreRefused : (0#5 : Buckets) = 0#5 ∧ 16 < (17#5 : Buckets).toNat ∧
    16 < (31#5 : Buckets).toNat := by decide

theorem witness_QkUpdateRecomputesOnlyOutsideWindow :
    (state1.knob .msMode).wf = true ∧
    ((state1.knob .msMode).lowerBound ≤ 251#10 ∧ 251#10 ≤ (state1.knob .msMode).upperBound) ∧
    ((state1.knob .msMode).lowerBound ≤ 517#10 ∧ 517#10 ≤ (state1.knob .msMode).upperBound) ∧
    250#10 < (state1.knob .msMode).lowerBound ∧ (state1.knob .msMode).upperBound < 518#10 := by decide

theorem witness_QkGetIndexReadsIndex : (state1.knob .msMode).wf = true ∧
    State.reset.knob .msMode = ⟨modeBuckets, 5#10, 0#4, (State.reset.knob .msMode).lastRaw, 0#10, 261#10⟩ := by decide

theorem witness_FrameOutputIsWidenedClockState :
    exec (.frame ⟨250#32, 0#10, 1023#10, 1023#10, false⟩) State.reset =
      .next (after (.frame ⟨250#32, 0#10, 1023#10, 1023#10, false⟩) State.reset) := rfl

/-- Every pair of bucket count and margin of the last clause. -/
theorem witness_ResetGivesEveryElementItsValue :
    ((State.reset.knob .msMode).numValues.toNat = 4 ∧ (State.reset.knob .msMode).hysteresis = 5#10) ∧
    ((State.reset.knob .clkRange).numValues.toNat = 3 ∧ (State.reset.knob .clkRange).hysteresis = 5#10) ∧
    ((State.reset.knob .bstRate).numValues.toNat = 1 ∧ (State.reset.knob .bstRate).hysteresis = 0#10) ∧
    ((State.reset.knob .divRate).numValues.toNat = 8 ∧ (State.reset.knob .divRate).hysteresis = 5#10) ∧
    ((State.reset.knob .mulRange).numValues.toNat = 2 ∧ (State.reset.knob .mulRange).hysteresis = 5#10) := by decide

theorem witness_QkMapIndexProjectsIndex :
    (state1.knob .msMode).wf = true ∧ (State.reset.knob .msMode).wf = true ∧
    (State.reset.knob .msMode).currentIndex = 0#4 ∧ (State.reset.knob .bstRate).wf = true ∧
    (State.reset.knob .bstRate).numValues.toNat = 1 := by decide

theorem witness_QkMapInnerRawProjectsReading :
    (state1.knob .msMode).wf = true ∧
    (withKnob .msMode (knobAfter 4#5 5#10 [262#10, 251#10])).kMode.lastRaw ≤
      (withKnob .msMode (knobAfter 4#5 5#10 [262#10, 251#10])).kMode.lowerBound ∧
    (withKnob .msMode (knobAfter 4#5 5#10 [262#10, 517#10])).kMode.upperBound ≤
      (withKnob .msMode (knobAfter 4#5 5#10 [262#10, 517#10])).kMode.lastRaw := by decide

theorem witness_InterpolationIsMonotonicInWindow :
    (state1.knob .msMode).wf = true ∧
    (withKnob .msMode (knob1.update 517#10)).knob .msMode = { state1.knob .msMode with lastRaw := 517#10 } ∧
    (state1.knob .msMode).lastRaw ≤ 517#10 ∧
    exec (.qkMapInnerRaw .msMode 0#32 1000#32) state1 = .next { state1 with result := .value 41#32 } ∧
    exec (.qkMapInnerRaw .msMode 0#32 1000#32) (withKnob .msMode (knob1.update 517#10)) =
      .next { withKnob .msMode (knob1.update 517#10) with result := .value 1000#32 } :=
  ⟨by decide, by decide, by decide, rfl, rfl⟩

theorem witness_QkConfigRederivesWindow :
    (1 ≤ (1#5 : Buckets).toNat ∧ (1#5 : Buckets).toNat ≤ 16) ∧
    (1 ≤ (16#5 : Buckets).toNat ∧ (16#5 : Buckets).toNat ≤ 16) := by decide

theorem witness_WindowsAreAtLeast63Wide :
    (15#4 : Index).toNat < BucketCount.toNat { bits := 16#5 } ∧ BucketCount.toNat { bits := 16#5 } = 16 ∧
    (0#4 : Index).toNat < bstRateBuckets.toNat ∧ bstRateBuckets.toNat = 1 := by decide

theorem witness_RisingSweepNeverLowersIndex :
    State.reset.knob .msMode =
      QuantizedKnob.atReset (State.reset.knob .msMode).numValues (State.reset.knob .msMode).hysteresis ∧
    [0#10, 261#10, 262#10, 1023#10].Pairwise (· ≤ ·) ∧
    indexTrace .msMode [0#10, 261#10, 262#10, 1023#10] State.reset = [0, 0, 1, 3] := by decide

/-- At index 1 of four buckets of 256, margin 5: the ends 251 and 516 of the stable range, and the first readings that raise
(518) and lower (250) the index. -/
theorem witness_HysteresisKeepsIndexStable :
    (state1.knob .msMode).wf = true ∧ 1 * 256 ≤ 251 + 5 ∧ 516 ≤ 1 * 256 + 256 - 1 + 5 ∧
    (state1.knob .msMode).currentIndex < ((after (.qkUpdate .msMode 518#10) state1).knob .msMode).currentIndex ∧
    ((after (.qkUpdate .msMode 250#10) state1).knob .msMode).currentIndex < (state1.knob .msMode).currentIndex := by
  decide

/-- The last curve, with the knob at its first and at its last segment. -/
theorem witness_CkSetCurveSwapsOnlyTheCurve :
    (2#4 : Index).toNat < State.reset.clkMode.kRate.nCurves.toNat ∧
    State.reset.config.tables.clkCurve[(2#4 : Index).toNat]? = some [31250#32, 15625#32, 8000#32, 4000#32, 2000#32] ∧
    State.reset.clkMode.kRate.k.currentIndex.toNat = 0 ∧
    (withKnob .clkRate (knobAfter 4#5 5#10 [1023#10])).clkMode.kRate.k.currentIndex.toNat = 3 := by decide

/-- The first selector and the first target outside their ranges. -/
theorem witness_OperandsOutOfRangeStillComplete :
    State.reset.clkMode.kRate.nCurves.toNat ≤ (3#4 : Index).toNat ∧ 65536 < (65537#17 : Duty).toNat := by decide

theorem witness_CkGetValueInterpolatesBreakpoints :
    (State.reset.knob CurveId.clkRate.knob).wf = true ∧ (State.reset.knob CurveId.bstRate.knob).wf = true ∧
    State.reset.config.tables.clkCurve[State.reset.clkMode.kRate.curveSel.toNat]? =
      some [8000000#32, 4000000#32, 2000000#32, 1000000#32, 500000#32] ∧
    State.reset.config.tables.bstCurve[State.reset.bstMode.kRate.currentIndex.toNat]? = some 500000#32 ∧
    State.reset.config.tables.bstCurve[State.reset.bstMode.kRate.currentIndex.toNat + 1]? = some 10000#32 := by decide

theorem witness_TwoBreakpointCurveRunsFromAToB :
    State.reset.bstMode.kRate.wf = true ∧ State.reset.bstMode.kRate.numValues.toNat = 1 ∧
    State.reset.config.tables.bstCurve = [500000#32, 10000#32] := by decide

theorem witness_PcGetStateIsRunningBelowDuty :
    (State.reset.setClock .clk { clockOf 1000 0 0 0 false with duty := 0#17 }).clkMode.clk.duty = 0#17 ∧
    (State.reset.setClock .clk { clockOf 1000 65535 0 0 false with duty := 65536#17 }).clkMode.clk.duty = 65536#17 ∧
    (withClk (clockOf 1000 19660 0 300 true)).clkMode.clk.phase = 19660#16 ∧
    (withClk (clockOf 1000 32768 0 300 true)).clkMode.clk.phase = 32768#16 := by decide

theorem witness_PcEdgePredicatesComparePreviousState :
    ((withClk (clockOf 1000 13107 0 0 false)).clock .clk).running = true ∧
    ((withClk (clockOf 1000 13107 0 0 false)).clock .clk).duty = 32768#17 ∧
    ((withClk (clockOf 1000 13107 0 0 false)).clock .clk).previousState = false ∧
    ((withClk (clockOf 1000 39321 0 0 true)).clock .clk).previousState = true ∧
    ((withClk (clockOf 1000 39321 0 0 true)).clock .clk).phase = 39321#16 := by decide

theorem witness_PcStartAnchorsPhaseZero :
    0 < (State.reset.clock .bst).duty.toNat ∧ (State.reset.clock .bst).previousState = false := by decide

theorem witness_PcSyncPlacesAnchor : (65536#17 : Duty).toNat ≤ 65536 ∧
    (State.reset.clock .bst).running = false ∧ (State.reset.clock .clk).running = true ∧
    (State.reset.clock .clk).period = 0#32 ∧ (withClk (clockOf 1000 0 0 0 false)).clkMode.clk.running = true := by decide

theorem witness_PcUpdateRecomputesPhase :
    (State.reset.clock .bst).running = false ∧ (State.reset.clock .clk).period = 0#32 ∧
    ((withClk (clockOf 1 0 0 0 false)).clock .clk).running = true ∧
    ((withClk (clockOf 1 0 0 0 false)).clock .clk).period ≠ 0#32 ∧
    ((withClk (clockOf 4294967295 0 0 0 false)).clock .clk).period ≠ 0#32 := by decide

theorem witness_PhaseMappingRanges : 998 < 999 ∧ (65535 : Nat) ≤ 65535 ∧ toPhase 998 999 = 65470 := by decide

theorem witness_SyncThenUpdateRoundsDownByLessThanBound :
    ((withClk (clockOf 999 0 4900 5000 true)).clock .clk).running = true ∧
    ((withClk (clockOf 999 0 4900 5000 true)).clock .clk).period ≠ 0#32 ∧ (32768#17 : Duty).toNat ≤ 65535 ∧
    (65535#17 : Duty).toNat ≤ 65535 := by decide

theorem witness_RunningPhaseMatchesAnchor :
    ((withClk (clockOf 1000 0 0 0 true)).clock .clk).period ≠ 0#32 ∧
    ((withClk (clockOf 1000 0 0 0 true)).clock .clk).running = true ∧
    returned (.pcIsRising .clk) (after (.pcUpdate .clk 300#32) (withClk (clockOf 1000 0 0 0 true))) = .bit false ∧
    returned (.pcIsRising .clk) (after (.pcUpdate .clk 1200#32) (withClk (clockOf 1000 58982 0 900 false))) =
      .bit true := by decide

theorem witness_SyncZeroThenUpdateReadsHigh :
    ((withClk (clockOf 1000 0 0 0 true)).clock .clk).running = true ∧
    0 < ((withClk (clockOf 1000 0 0 0 true)).clock .clk).duty.toNat := by decide

/-- Frames that take each branch of the four mode steps: with and without a trigger edge, and a counted gate below and at the
repeat count. -/
theorem witness_ModeStepBranches :
    (fwd 0 0 0 true).trig = true ∧ State.reset.clkMode.prevTrig = false ∧ (fwd 0 0 0 false).trig = false ∧
    (after (.modeBurst (fwd 5000 1023 450 true)) (after (.modeBurst (fwd 0 1023 450 true)) State.reset)).bstMode.gates =
      1#8 ∧
    (after (.modeBurst (fwd 5000 1023 0 true)) (after (.modeBurst (fwd 0 1023 0 true)) State.reset)).bstMode.gates =
      0#8 ∧
    (after (.modeDivide (fwd 1000 200 0 true)) State.reset).divMode.prevIn = true ∧
    (after (.modeMultiply (fwd 1000 200 0 true)) State.reset).mulMode.prevIn = true := by decide

theorem witness_ModeStepTouchesOnlyItsBehaviour :
    (after (.modeClock (fwd 250 1023 1023 false)) State.reset).bstMode = State.reset.bstMode ∧
    (after (.modeClock (fwd 250 1023 1023 false)) State.reset).config = State.reset.config ∧
    after (.modeClock (fwd 250 1023 1023 false)) State.reset ≠ State.reset := by decide

theorem witness_ClockTriggerRiseRestartsHigh :
    (fwd 1500 1023 1023 true).trig = true ∧ State.reset.clkMode.prevTrig = false ∧
    State.reset.clkMode.clk.running = true ∧ 0 < State.reset.clkMode.clk.duty.toNat ∧
    (after (.modeClock (fwd 1500 1023 1023 true)) State.reset).clkMode.clk.period ≠ 0#32 := by decide

/-- Divide and multiply after an input rise. -/
def risen : State := after (.modeMultiply (fwd 1000 200 0 true)) (after (.modeDivide (fwd 1000 200 0 true)) State.reset)

theorem witness_FollowerReadsLowAtInputFall :
    (fwd 2000 200 0 false).trig = false ∧ risen.divMode.prevIn = true ∧ risen.divMode.clk.running = true ∧
    risen.divMode.clk.duty.toNat < 65536 ∧ risen.mulMode.prevIn = true ∧ risen.mulMode.clk.running = true ∧
    risen.mulMode.clk.duty.toNat < 65536 := by decide

theorem witness_FollowerReadsHighUntilFirstInputRise :
    State.reset.divMode.clk.running = true ∧ State.reset.divMode.clk.period = 0#32 ∧
    State.reset.divMode.clk.phase = 0#16 ∧ 0 < State.reset.divMode.clk.duty.toNat ∧
    State.reset.divMode.prevIn = false ∧ State.reset.mulMode = State.reset.divMode ∧
    (∀ x ∈ [fwd 500 0 0 false, fwd 1000 0 0 false], x.trig = false) := by decide

theorem witness_FollowerPeriodFormula :
    (Ratio.mk 1#8 2#8).num = 1#8 ∧ (Ratio.mk 1#8 2#8).den = 2#8 ∧ (Ratio.mk 1#8 4#8).den = 4#8 ∧
    (Ratio.mk 1#8 3#8).den = 3#8 := by decide

theorem witness_IdleBurstStaysLowUntilTrigger :
    State.reset.bstMode.clk.running = false ∧
    noTrigRise State.reset.bstMode.prevTrig [fwd 1000 1023 450 false, fwd 2000 1023 450 false] = true := by decide

/-- Readings that select each of the four indices (rule R192). -/
theorem witness_FrameRunsTheSelectedModeStep :
    (State.reset.kMode.update 0#10).currentIndex = 0#4 ∧ (State.reset.kMode.update 511#10).currentIndex = 1#4 ∧
    (State.reset.kMode.update 512#10).currentIndex = 2#4 ∧ (State.reset.kMode.update 1023#10).currentIndex = 3#4 := by
  decide

/-- Program P4's middle frames never select ClockMode. -/
theorem witness_PausedBehaviourIsPreservedOverRuns :
    neverSelects .clock [⟨2000#32, 300#10, 1023#10, 450#10, true⟩, ⟨4500#32, 300#10, 1023#10, 450#10, false⟩]
      State.reset = true := by decide

theorem witness_StepKeepsStateInvariant :
    State.reset.wf = true ∧ step State.reset = .next State.reset ∧ state1.wf = true ∧
    (State.reset.present (.word 0x1A#80)).wf = true ∧
    step (State.reset.present (.word 0x1A#80)) = .next State.reset :=
  ⟨by decide, rfl, by decide, by decide, rfl⟩

/-! Configurations are legal by their types (rule R8): the tables of another size, of a table more, are refused. -/

theorem test_config_refuses_missing_curve :
    Tables.reference.sizedFor { bits := 4#5 } { bits := 4#5 } { bits := 8#5 } { bits := 2#5 } = false := by decide

theorem test_buckets_refused : bucketsLegal 0#5 = false ∧ bucketsLegal 17#5 = false := by decide

theorem test_selectorWidth : selectorWidth Config.reference.clkNCurves = 2 ∧ selectorWidth { bits := 1#5 } = 1 ∧
    selectorWidth { bits := 16#5 } = 4 := by decide

theorem witness_ComposedCoreKeepsTableSizes : State.reset.wf = true ∧ State.reset.sized = true := by decide

theorem witness_TableReadsAreInBounds :
    (after (.frame ⟨0#32, 0#10, 1023#10, 1023#10, false⟩) State.reset).wf = true ∧
    (after (.frame ⟨0#32, 0#10, 1023#10, 1023#10, false⟩) State.reset).sized = true := by decide

end Sys2Proof.Tests
end

section
/-! ### RESET (rules R35, R198)

Each part of the state after RESET is a reset value of its own kind, a knob's or a clock's, so rule R35's table is the table
of these two. -/

namespace Sys2Proof.Machine

@[simp] theorem exec_reset (s : State) : exec .reset s = .next s.toReset := rfl

/-! ### The window of index 0 -/

@[simp] theorem windowLower_zero (n : BucketCount) (h : Margin) : windowLower n h 0#4 = 0#10 :=
  BitVec.eq_of_toNat_eq (by simp [windowLower_toNat (i := 0#4) n.bounds.1])

theorem windowUpper_zero_toNat (n : BucketCount) (h : Margin) :
    (windowUpper n h 0#4).toNat = min (1024 / n.toNat + h.toNat) 1023 := by
  simp [windowUpper_toNat, bucketStep, rawRange]

/-! ### A knob after RESET -/

@[simp] theorem QuantizedKnob.toReset_numValues (q : QuantizedKnob) : q.toReset.numValues = q.numValues := rfl
@[simp] theorem QuantizedKnob.toReset_hysteresis (q : QuantizedKnob) : q.toReset.hysteresis = q.hysteresis := rfl
@[simp] theorem QuantizedKnob.toReset_currentIndex (q : QuantizedKnob) : q.toReset.currentIndex = 0#4 := rfl
@[simp] theorem QuantizedKnob.toReset_lastRaw (q : QuantizedKnob) : q.toReset.lastRaw = 0#10 := rfl

@[simp] theorem QuantizedKnob.toReset_lowerBound (q : QuantizedKnob) : q.toReset.lowerBound = 0#10 :=
  windowLower_zero q.numValues q.hysteresis

theorem QuantizedKnob.toReset_upperBound_toNat (q : QuantizedKnob) :
    q.toReset.upperBound.toNat = min (1024 / q.numValues.toNat + q.hysteresis.toNat) 1023 :=
  windowUpper_zero_toNat q.numValues q.hysteresis

/-- The upper end of the reset window for a given bucket count and margin (the table of windows in rule R35). -/
theorem QuantizedKnob.toReset_upperBound_eq {q : QuantizedKnob} {n : Nat} {h u : Raw} (hn : q.numValues.toNat = n)
    (hh : q.hysteresis = h) (hu : min (1024 / n + h.toNat) 1023 = u.toNat) : q.toReset.upperBound = u := by
  subst hn hh
  exact BitVec.eq_of_toNat_eq (q.toReset_upperBound_toNat.trans hu)

/-! ### The parts of the state after RESET -/

@[simp] theorem State.knob_toReset (s : State) (k : KnobId) : s.toReset.knob k = (s.knob k).toReset := by
  cases k <;> rfl

/-- Every clock but the burst's runs after RESET (rule R227). -/
@[simp] theorem State.clock_toReset (s : State) (p : ClockId) : s.toReset.clock p = .atReset (decide (p ≠ .bst)) := by
  cases p <;> rfl

@[simp] theorem CurveKnob.toReset_curveSel (c : CurveKnob) : c.toReset.curveSel.toNat = 0 := Nat.zero_mod _

/-- Settles O53: a knob by the window of index 0, a clock and the other registers by the reset value RESET writes. -/
theorem resetGivesEveryElementItsValue : Obligations.ResetGivesEveryElementItsValue := by
  intro s
  refine ⟨s.toReset, exec_reset s, fun k => ?knob, CurveKnob.toReset_curveSel _, fun p => ?clock,
    rfl, rfl, rfl, rfl, rfl, rfl, rfl, rfl, rfl, rfl, fun k => ?windows⟩
  case knob => simpa using (s.knob k).toReset_upperBound_toNat
  case clock =>
    rw [State.clock_toReset]
    exact ⟨rfl, rfl, rfl, rfl, rfl, rfl, rfl⟩
  case windows =>
    rw [State.knob_toReset]
    refine ⟨?_, ?_, ?_, ?_, ?_⟩ <;> exact fun hn hh => QuantizedKnob.toReset_upperBound_eq hn hh rfl

end Sys2Proof.Machine
end

section
/-! ### The frame word (rule R82)

A frame word is a concatenation, so its number is that of its parts, each shifted past the parts below it; and the slices at
those places are adjacent, so that together they are the whole word. -/

namespace Sys2Proof

/-- A concatenation as a number: the upper part counts units of `2 ^ m`. -/
theorem toNat_append_eq_add {n m : Nat} (x : BitVec n) (y : BitVec m) : (x ++ y).toNat = x.toNat * 2 ^ m + y.toNat := by
  rw [BitVec.toNat_append, ← Nat.shiftLeft_add_eq_or_of_lt y.isLt, Nat.shiftLeft_eq]

/-- The bit `i` of a word is its slice of length 1 at `i`. -/
theorem ofBool_getLsbD_eq_slice {n : Nat} (w : BitVec n) (i : Nat) : BitVec.ofBool (w.getLsbD i) = w.extractLsb' i 1 :=
  BitVec.eq_of_getLsbD_eq fun j hj => by
    obtain rfl : j = 0 := by omega
    simp

/-- The number of a frame word, as rule R82 writes it. -/
theorem frameToWord_toNat (f : Frame) : (frameToWord f).toNat =
    f.now.toNat * 2 ^ 31 + f.modeRaw.toNat * 2 ^ 21 + f.rateRaw.toNat * 2 ^ 11 + f.rangeRaw.toNat * 2 +
      f.trig.toNat := by
  simp only [frameToWord, toNat_append_eq_add, BitVec.toNat_ofBool]
  omega

/-- The frame word determines the fields. -/
theorem frameOfWord_frameToWord (f : Frame) : frameOfWord (frameToWord f) = f :=
  (Frame.mk.injEq ..).mpr
    ⟨frameOfWord_now f, frameOfWord_modeRaw f, frameOfWord_rateRaw f, frameOfWord_rangeRaw f, frameOfWord_trig f⟩

/-- The fields determine the frame word: its five slices are adjacent, from bit 0 to bit 62. -/
theorem frameToWord_frameOfWord (w : FrameWord) : frameToWord (frameOfWord w) = w :=
  calc frameToWord (frameOfWord w)
      = w.extractLsb' 31 32 ++ w.extractLsb' 21 10 ++ w.extractLsb' 11 10 ++ w.extractLsb' 1 10 ++
          w.extractLsb' 0 1 := by rw [← ofBool_getLsbD_eq_slice]; rfl
    _ = w.extractLsb' 21 42 ++ w.extractLsb' 11 10 ++ w.extractLsb' 1 10 ++ w.extractLsb' 0 1 := by
      rw [BitVec.extractLsb'_append_extractLsb'_eq_extractLsb' (by rfl)]
    _ = w.extractLsb' 11 52 ++ w.extractLsb' 1 10 ++ w.extractLsb' 0 1 := by
      rw [BitVec.extractLsb'_append_extractLsb'_eq_extractLsb' (by rfl)]
    _ = w.extractLsb' 1 62 ++ w.extractLsb' 0 1 := by
      rw [BitVec.extractLsb'_append_extractLsb'_eq_extractLsb' (by rfl)]
    _ = w.extractLsb' 0 63 := BitVec.extractLsb'_append_extractLsb'_eq_extractLsb' rfl
    _ = w := BitVec.extractLsb'_eq_self

/-- Settles O3: the number of a concatenation, and the round trips in both directions; the decoder's slices are rule R82's. -/
theorem frameWordLayout : Obligations.FrameWordLayout :=
  ⟨fun f => ⟨frameToWord_toNat f, frameOfWord_frameToWord f⟩,
    fun w => ⟨frameToWord_frameOfWord w, rfl, rfl, rfl, rfl, rfl⟩⟩

end Sys2Proof
end

section
/-! ### The output register (rule R84)

Only FRAME and RESET write it: FRAME the widened clock state of the behaviour it ran, RESET the low value. -/

namespace Sys2Proof.Machine

@[simp] theorem exec_frame (f : Frame) (s : State) : exec (.frame f) s = .next (s.frameStep f) := rfl

@[simp] theorem exec_pcGetState (p : ClockId) (s : State) :
    exec (.pcGetState p) s = .next (s.withResult (.bit (s.clock p).getState)) := rfl

/-! ### What an operation can write -/

/-- The shapes of the state after an operation: one unit replaced or nothing, and a result recorded; or the step of a
behaviour, of FRAME or of RESET. -/
inductive Writes (s : State) : State → Prop
  | result (r : Result) : Writes s (s.withResult r)
  | knob (k : KnobId) (q : QuantizedKnob) : Writes s ((s.setKnob k q).withResult .none)
  | curve (c : CurveKnob) : Writes s ((s.setClkRate c).withResult .none)
  | clock (p : ClockId) (c : PhaseClock) (r : Result) : Writes s ((s.setClock p c).withResult r)
  | mode (m : ModeId) (x : Forwarded) (r : Result) : Writes s ((s.runMode m x).withResult r)
  | frame (f : Frame) : Writes s (s.frameStep f)
  | reset : Writes s s.toReset

/-- An operation that completes writes one of these shapes. -/
theorem exec_writes {i : Instr} {s t : State} (h : exec i s = .next t) : Writes s t := by
  cases i with
  | qkGetIndex | qkGetRaw | qkMapIndex | qkMapInnerRaw | pcGetState | pcIsRising | pcIsFalling =>
    cases h; exact .result _
  | qkUpdate | ckUpdate => cases h; exact .knob _ _
  | pcStart | pcStop | pcSync | pcUpdate | pcSetPeriod | pcSetDuty => cases h; exact .clock _ _ _
  | modeClock x => cases h; exact .mode .clock x _
  | modeBurst x => cases h; exact .mode .burst x _
  | modeDivide x => cases h; exact .mode .divide x _
  | modeMultiply x => cases h; exact .mode .multiply x _
  | frame f => cases h; exact .frame f
  | reset => cases h; exact .reset
  | ckGetValue c => cases c <;> (cases h; exact .result _)
  | ckSetCurve c sel =>
    cases c with
    | clkRate => cases h; exact .curve _
    | bstRate => cases h
  | qkConfig k nv hyst =>
    simp only [exec, execQkConfig] at h
    split at h
    · cases h; exact .knob _ _
    · cases h

/-! ### The output register -/

@[simp] theorem widen_true : widen true = 255#8 := rfl
@[simp] theorem widen_false : widen false = 0#8 := rfl

@[simp] theorem State.runMode_outLevel (s : State) (m : ModeId) (x : Forwarded) :
    (s.runMode m x).outLevel = s.outLevel := by
  cases m <;> rfl

@[simp] theorem State.toReset_outLevel (s : State) : s.toReset.outLevel = 0#8 := rfl

/-- Writing the output register and the handshake leaves the clocks as the mode step left them. -/
theorem State.clock_frameStep (s : State) (f : Frame) (p : ClockId) : (s.frameStep f).clock p =
    (({ s with kMode := s.kMode.update f.modeRaw } : State).runMode (s.selected f) f.forwarded).clock p := by
  cases p <;> rfl

/-- FRAME writes the widened clock state of the behaviour it selects, as that state is after the frame. -/
theorem State.frameStep_outLevel (s : State) (f : Frame) : (s.frameStep f).outLevel =
    widen ((s.frameStep f).clock (clockOfMode (s.selected f))).getState := by
  rw [State.clock_frameStep]
  rfl

@[simp] theorem State.frameStep_result (s : State) (f : Frame) :
    (s.frameStep f).result = .level (s.frameStep f).outLevel := rfl

/-- No operation but FRAME and RESET writes the register, and these write a widened value. -/
theorem Writes.outLevel {s t : State} (h : Writes s t) : t.outLevel = s.outLevel ∨ ∃ b, t.outLevel = widen b := by
  cases h with
  | frame f => exact .inr ⟨_, s.frameStep_outLevel f⟩
  | reset => exact .inr ⟨false, s.toReset_outLevel.trans widen_false.symm⟩
  | result | knob | curve | clock | mode => left; simp

/-- Settles O50: FRAME writes the widened clock state and returns it; every other operation keeps the register or, RESET,
writes a widened value too. -/
theorem frameOutputIsWidenedClockState : Obligations.FrameOutputIsWidenedClockState := by
  refine ⟨fun s f => ?afterFrame, fun i s t h => ?everyOperation⟩
  case afterFrame =>
    exact ⟨s.frameStep f, _, exec_frame f s, exec_pcGetState _ _, s.frameStep_outLevel f, s.frameStep_result f⟩
  case everyOperation =>
    obtain hkept | ⟨b, hb⟩ := (exec_writes h).outLevel
    · exact .inl hkept
    · cases b with
      | true => exact .inr (.inl (hb.trans widen_true))
      | false => exact .inr (.inr (hb.trans widen_false))

end Sys2Proof.Machine
end

section
/-! ### The operations on one QuantizedKnob (rules R101 to R109)

QK.UPDATE and QK.CONFIG replace one knob, and where they rewrite its window it is that of a legal index, so one lemma gives
both ends as rule R102 writes them. The other four operations record a result; the two projections are one function, whose
values at its ends are said once. -/

namespace Sys2Proof.Machine

/-! ### What each operation does to the state -/

@[simp] theorem exec_qkUpdate (k : KnobId) (raw : Raw) (s : State) :
    exec (.qkUpdate k raw) s = .next ((s.setKnob k ((s.knob k).update raw)).withResult .none) := rfl

@[simp] theorem exec_qkGetIndex (k : KnobId) (s : State) :
    exec (.qkGetIndex k) s = .next (s.withResult (.index (s.knob k).currentIndex)) := rfl

@[simp] theorem exec_qkGetRaw (k : KnobId) (s : State) :
    exec (.qkGetRaw k) s = .next (s.withResult (.raw (s.knob k).lastRaw)) := rfl

@[simp] theorem exec_qkMapIndex (k : KnobId) (a b : Time) (s : State) :
    exec (.qkMapIndex k a b) s = .next (s.withResult (.value ((s.knob k).mapIndex a b))) := rfl

@[simp] theorem exec_qkMapInnerRaw (k : KnobId) (a b : Time) (s : State) :
    exec (.qkMapInnerRaw k a b) s = .next (s.withResult (.value ((s.knob k).mapInnerRaw a b))) := rfl

theorem exec_qkConfig {nv : Buckets} (hnv : bucketsLegal nv = true) (k : KnobId) (h : Margin) (s : State) :
    exec (.qkConfig k nv h) s = .next ((s.setKnob k ((s.knob k).config ⟨nv, hnv⟩ h)).withResult .none) :=
  dif_pos hnv

/-- A run of two operations that complete. -/
theorem execAll_pair {i j : Instr} {s t u : State} (hi : exec i s = .next t) (hj : exec j t = .next u) :
    execAll [i, j] s = .next u :=
  (execAll_cons hi).trans (execAll_cons hj)

/-! ### Windows as rule R102 writes them -/

theorem bucketStep_eq (n : BucketCount) : bucketStep n = 1024 / n.toNat := rfl

/-- Both ends of the window of a legal index; the lower one is clamped at 0 after a signed subtraction. -/
theorem window_ends {n : BucketCount} {i : Index} (hi : i.toNat < n.toNat) (h : Margin) :
    ((windowLower n h i).toNat : Int) = max ((i.toNat * (1024 / n.toNat) : Nat) - (h.toNat : Int)) 0 ∧
    (windowUpper n h i).toNat = min (i.toNat * (1024 / n.toNat) + 1024 / n.toNat + h.toNat) 1023 := by
  rw [windowLower_toNat hi, windowUpper_toNat, bucketStep_eq]
  exact ⟨by omega, rfl⟩

/-- A reading is outside the window when it is below the lower or above the upper end. -/
theorem QuantizedKnob.inWindow_eq_false_iff (q : QuantizedKnob) (raw : Raw) :
    q.inWindow raw = false ↔ raw < q.lowerBound ∨ q.upperBound < raw := by
  rw [← Bool.not_eq_true, inWindow_iff, BitVec.lt_def, BitVec.lt_def]
  omega

/-! ### A projection at its ends -/

@[simp] theorem project_zero (span : Nat) (a b : Time) : project 0 span a b = a := by
  simp [project, truncDiv]

@[simp] theorem project_self (pos span : Nat) (a : Time) : project pos span a a = a := by
  simp [project, truncDiv]

@[simp] theorem project_span {span : Nat} (h : 0 < span) (a b : Time) : project span span a b = b := by
  have hne : (span : Int) ≠ 0 := by omega
  simp [project, truncDiv, Int.mul_tdiv_cancel_left _ hne]

/-- A position short of the span does not reach the far end of a proper range: the quotient stays below the range. -/
theorem eq_of_project_eq_right {pos span : Nat} (hp : pos < span) {a b : Time} (h : project pos span a b = b) : a = b := by
  have hlt : ∀ d : Nat, 0 < d → pos * d / span < d := fun d hd =>
    Nat.div_lt_of_lt_mul (Nat.mul_lt_mul_of_pos_right hp hd)
  apply BitVec.eq_of_toNat_eq
  rcases Nat.lt_trichotomy a.toNat b.toNat with hab | hab | hab
  · have hv := project_rising hp.le hab.le
    have := hlt (b.toNat - a.toNat) (by omega)
    rw [h] at hv
    omega
  · exact hab
  · have hv := project_falling hp.le hab.le
    have := hlt (a.toNat - b.toNat) (by omega)
    rw [h] at hv
    omega

/-! ### QK.MAPINNERRAW at the ends of the window -/

/-- A reading at or below the window projects to `a` (rule R108). -/
theorem QuantizedKnob.mapInnerRaw_of_le_lower {q : QuantizedKnob} (hw : q.wf = true) (h : q.lastRaw ≤ q.lowerBound)
    (a b : Time) : q.mapInnerRaw a b = a := by
  have hlt := wf_lower_lt_upper hw
  rw [BitVec.le_def] at h
  have hpos : clamp q.lastRaw.toNat q.lowerBound.toNat q.upperBound.toNat - q.lowerBound.toNat = 0 := by
    simp only [clamp]; omega
  simp only [mapInnerRaw, hpos, project_zero]

/-- A reading at or above the window projects to `b` (rule R108). -/
theorem QuantizedKnob.mapInnerRaw_of_upper_le {q : QuantizedKnob} (hw : q.wf = true) (h : q.upperBound ≤ q.lastRaw)
    (a b : Time) : q.mapInnerRaw a b = b := by
  have hlt := wf_lower_lt_upper hw
  rw [BitVec.le_def] at h
  have hpos : clamp q.lastRaw.toNat q.lowerBound.toNat q.upperBound.toNat = q.upperBound.toNat := by
    simp only [clamp]; omega
  simp only [mapInnerRaw, hpos]
  exact project_span (by omega) a b

/-! ### The statements -/

/-- Settles O12: the frame is that of replacing one knob; inside and outside the window are the two cases of the update. -/
theorem qkUpdateRecomputesOnlyOutsideWindow : Obligations.QkUpdateRecomputesOnlyOutsideWindow := by
  intro s k raw _
  refine ⟨_, exec_qkUpdate k raw s, rfl, sameExceptKnob_setKnob s k _ _, ?_⟩
  rw [State.knob_withResult, State.knob_setKnob]
  generalize s.knob k = q
  refine ⟨q.update_lastRaw raw, q.update_numValues raw, q.update_hysteresis raw, fun hin => ?inside,
    fun hout => ?outside⟩
  case inside =>
    rw [QuantizedKnob.update_inside ((q.inWindow_iff raw).2 hin)]
    exact ⟨rfl, rfl, rfl⟩
  case outside =>
    rw [QuantizedKnob.update_outside ((q.inWindow_eq_false_iff raw).2 hout)]
    exact ⟨bucketOf_toNat q.numValues raw, window_ends (bucketOf_lt q.numValues raw) q.hysteresis⟩

/-- Settles O15: the projection of a position short of the span, so the far end is reached in an empty range only; with one
bucket the index is 0. -/
theorem qkMapIndexProjectsIndex : Obligations.QkMapIndexProjectsIndex := by
  intro s k a b hw
  refine ⟨_, exec_qkMapIndex k a b s, ?_⟩
  generalize s.knob k = q at hw ⊢
  have hi : q.currentIndex.toNat < q.numValues.toNat := QuantizedKnob.wf_index hw
  have at_zero : q.currentIndex.toNat = 0 → q.mapIndex a b = a := fun h => by
    rw [QuantizedKnob.mapIndex, h, project_zero]
  obtain ⟨hformula, hmin, hmax⟩ := project_toNat hi.le a b
  refine ⟨hformula, hmin, hmax, fun h => at_zero (by rw [h]; rfl), ?empty,
    eq_of_project_eq_right hi, fun h => at_zero (by omega)⟩
  case empty =>
    rintro rfl
    exact project_self _ _ a

/-- Settles O16: the projection of the clamped position, which is 0 at the lower and the span at the upper end. -/
theorem qkMapInnerRawProjectsReading : Obligations.QkMapInnerRawProjectsReading := by
  intro s k a b hw
  obtain ⟨hformula, hmin, hmax⟩ := QuantizedKnob.mapInnerRaw_toNat (QuantizedKnob.wf_lower_lt_upper hw) a b
  refine ⟨_, exec_qkMapInnerRaw k a b s, hformula, hmin, hmax,
    fun h => QuantizedKnob.mapInnerRaw_of_le_lower hw h a b, fun h => QuantizedKnob.mapInnerRaw_of_upper_le hw h a b,
    ?empty⟩
  case empty =>
    rintro rfl
    exact project_self _ _ a

/-- Settles O18: the frame is that of replacing one knob; the clamped index is legal, so the window is rule R102's. -/
theorem qkConfigRederivesWindow : Obligations.QkConfigRederivesWindow := by
  intro s k nv h h1 h16
  have hnv : bucketsLegal nv = true := bucketsLegal_iff.2 ⟨h1, h16⟩
  refine ⟨_, exec_qkConfig hnv k h s, rfl, sameExceptKnob_setKnob s k _ _, ?_⟩
  rw [State.knob_withResult, State.knob_setKnob]
  have hw := QuantizedKnob.wf_config ⟨nv, hnv⟩ (s.knob k) h
  exact ⟨rfl, rfl, rfl, QuantizedKnob.config_index ⟨nv, hnv⟩ (s.knob k) h, window_ends (QuantizedKnob.wf_index hw) h⟩

/-- Settles O13: in the rule's example 262 is above the window, so the index read is that of its bucket. -/
theorem qkGetIndexReadsIndex : Obligations.QkGetIndexReadsIndex := by
  refine ⟨fun s k => ⟨exec_qkGetIndex k s, QuantizedKnob.wf_index⟩, fun s k hk => ?worked⟩
  case worked =>
    have hout : (s.knob k).inWindow 262#10 = false := by rw [hk]; rfl
    have hnum : (s.knob k).numValues = modeBuckets := by rw [hk]
    have hbucket : bucketOf modeBuckets 262#10 = 1#4 := by decide
    refine ⟨_, execAll_pair (exec_qkUpdate k 262#10 s) (exec_qkGetIndex k _), ?_⟩
    simp [QuantizedKnob.update_outside hout, hnum, hbucket]

/-- Settles O14: a knob's last reading is 0 after RESET and the operand after QK.UPDATE. -/
theorem qkGetRawReadsLastReading : Obligations.QkGetRawReadsLastReading := by
  refine ⟨fun s k => exec_qkGetRaw k s, fun s k => ?afterReset, fun s k => ?afterUpdate⟩
  case afterReset => exact ⟨_, execAll_pair (exec_reset s) (exec_qkGetRaw k _), by simp⟩
  case afterUpdate => exact ⟨_, execAll_pair (exec_qkUpdate k 262#10 s) (exec_qkGetRaw k _), by simp⟩

end Sys2Proof.Machine
end

section
/-! ### The operations on one CurveKnob (rules R121 to R124)

CK.UPDATE is QK.UPDATE of the knob inside. CK.SETCURVE writes the selector, whatever its operand. CK.GETVALUE is QK.MAPINNERRAW
of the knob inside between two breakpoints, so what rule R108's projection is known to do carries over. -/

namespace Sys2Proof.Machine

/-! ### What each operation does to the state -/

@[simp] theorem exec_ckUpdate (c : CurveId) (raw : Raw) (s : State) :
    exec (.ckUpdate c raw) s = .next ((s.setKnob c.knob ((s.knob c.knob).update raw)).withResult .none) := rfl

@[simp] theorem exec_ckSetCurve_clkRate (sel : Index) (s : State) :
    exec (.ckSetCurve .clkRate sel) s = .next ((s.setClkRate (s.clkMode.kRate.setCurve sel)).withResult .none) := rfl

@[simp] theorem exec_ckGetValue_clkRate (s : State) :
    exec (.ckGetValue .clkRate) s = .next (s.withResult (.value (s.clkMode.kRate.value s.config.tables))) := rfl

@[simp] theorem exec_ckGetValue_bstRate (s : State) :
    exec (.ckGetValue .bstRate) s = .next (s.withResult (.value (bstRateValue s.config.tables s.bstMode.kRate))) := rfl

/-! ### What a change of curve leaves unchanged -/

/-- The frame of CK.SETCURVE for every operand, one out of range included: no knob state, no clock, nothing else. -/
theorem setCurve_frame (s : State) (sel : Index) (r : Result) :
    (∀ k, ((s.setClkRate (s.clkMode.kRate.setCurve sel)).withResult r).knob k = s.knob k) ∧
    (∀ p, ((s.setClkRate (s.clkMode.kRate.setCurve sel)).withResult r).clock p = s.clock p) ∧
    sameScalars s ((s.setClkRate (s.clkMode.kRate.setCurve sel)).withResult r) := by
  refine ⟨fun k => ?knob, fun p => ?clock, ?scalars⟩
  case knob => rw [State.knob_withResult, State.knob_setClkRate s (CurveKnob.setCurve_k _ sel)]
  case clock => rw [State.clock_withResult, State.clock_setClkRate]
  case scalars => simp [sameScalars]

/-! ### The value between two breakpoints of the table -/

theorem CurveKnob.value_of_row {tb : Tables} {c : CurveKnob} {row : List Time} {a b : Time}
    (hrow : tb.clkCurve[c.curveSel.toNat]? = some row) (ha : row[c.k.currentIndex.toNat]? = some a)
    (hb : row[c.k.currentIndex.toNat + 1]? = some b) : c.value tb = c.k.mapInnerRaw a b := by
  rw [CurveKnob.value, clkBreakpoint_of_row hrow ha, clkBreakpoint_of_row hrow hb]

theorem bstRateValue_of_entries {tb : Tables} {q : QuantizedKnob} {a b : Time}
    (ha : tb.bstCurve[q.currentIndex.toNat]? = some a) (hb : tb.bstCurve[q.currentIndex.toNat + 1]? = some b) :
    bstRateValue tb q = q.mapInnerRaw a b := by
  rw [bstRateValue, bstBreakpoint_of_entry ha, bstBreakpoint_of_entry hb]

/-! ### The statements -/

/-- Settles O23: the stored selector is the operand, and the knob inside is the old one, so the next value is the old
position's projection between the new row's breakpoints. -/
theorem ckSetCurveSwapsOnlyTheCurve : Obligations.CkSetCurveSwapsOnlyTheCurve := by
  intro s sel hsel
  have hstored := CurveKnob.setCurve_curveSel s.clkMode.kRate hsel
  obtain ⟨hknob, hclock, hscalars⟩ := setCurve_frame s sel .none
  refine ⟨_, exec_ckSetCurve_clkRate sel s, hstored, rfl, hknob, hclock, hscalars, fun row a b hrow ha hb => ?nextValue⟩
  case nextValue =>
    have hnew : s.config.tables.clkCurve[(s.clkMode.kRate.setCurve sel).curveSel.toNat]? = some row := by
      rw [hstored, hrow]
    have hvalue : (s.clkMode.kRate.setCurve sel).value s.config.tables = (s.knob .clkRate).mapInnerRaw a b :=
      CurveKnob.value_of_row hnew ha hb
    exact ⟨_, _, exec_ckGetValue_clkRate _, exec_qkMapInnerRaw .clkRate a b s, congrArg Result.value hvalue.symm⟩

/-- Settles O25: on either curve the value is the inner knob's projection between the two breakpoints, rule R108's formula. -/
theorem ckGetValueInterpolatesBreakpoints : Obligations.CkGetValueInterpolatesBreakpoints := by
  intro s c hw
  have hformula := QuantizedKnob.mapInnerRaw_toNat (QuantizedKnob.wf_lower_lt_upper hw)
  cases c with
  | clkRate =>
    refine ⟨_, exec_ckGetValue_clkRate s, ?_⟩
    rintro a b ⟨row, hrow, ha, hb⟩
    rw [CurveKnob.value_of_row hrow ha hb]
    exact hformula a b
  | bstRate =>
    refine ⟨_, exec_ckGetValue_bstRate s, ?_⟩
    rintro a b ⟨ha, hb⟩
    rw [bstRateValue_of_entries ha hb]
    exact hformula a b

/-- Settles O22: both operations replace the same knob by its update, whose frame is that of replacing one knob. -/
theorem ckUpdateIsQkUpdateOfInnerKnob : Obligations.CkUpdateIsQkUpdateOfInnerKnob := by
  intro s c raw
  refine ⟨_, exec_ckUpdate c raw s, exec_qkUpdate c.knob raw s, sameExceptKnob_setKnob s c.knob _ _, ?lastRaw⟩
  case lastRaw => rw [State.knob_withResult, State.knob_setKnob, QuantizedKnob.update_lastRaw]

end Sys2Proof.Machine
end

section
/-! ### The operations on one PhaseClock (rules R136 to R145)

Six of the nine operations replace one clock, so each statement about them is the one frame and a fact about that clock; the three
predicates record a result. What PC.SYNC and PC.UPDATE write is rule R136's mapping, in both directions. -/

namespace Sys2Proof.Machine

/-! ### What each operation does to the state -/

@[simp] theorem exec_pcStart (p : ClockId) (t : Time) (s : State) :
    exec (.pcStart p t) s = .next ((s.setClock p ((s.clock p).start t)).withResult .none) := rfl

@[simp] theorem exec_pcStop (p : ClockId) (s : State) :
    exec (.pcStop p) s = .next ((s.setClock p (s.clock p).stop).withResult .none) := rfl

@[simp] theorem exec_pcSync (p : ClockId) (target : Duty) (s : State) :
    exec (.pcSync p target) s = .next ((s.setClock p ((s.clock p).sync target)).withResult .none) := rfl

@[simp] theorem exec_pcUpdate (p : ClockId) (t : Time) (s : State) :
    exec (.pcUpdate p t) s =
      .next ((s.setClock p ((s.clock p).update t)).withResult (.bit (s.clock p).advances)) := rfl

@[simp] theorem exec_pcSetPeriod (p : ClockId) (period : Time) (s : State) :
    exec (.pcSetPeriod p period) s = .next ((s.setClock p ((s.clock p).setPeriod period)).withResult .none) := rfl

@[simp] theorem exec_pcSetDuty (p : ClockId) (d : Duty) (s : State) :
    exec (.pcSetDuty p d) s = .next ((s.setClock p ((s.clock p).setDuty d)).withResult .none) := rfl

@[simp] theorem exec_pcIsRising (p : ClockId) (s : State) :
    exec (.pcIsRising p) s = .next (s.withResult (.bit (s.clock p).isRising)) := rfl

@[simp] theorem exec_pcIsFalling (p : ClockId) (s : State) :
    exec (.pcIsFalling p) s = .next (s.withResult (.bit (s.clock p).isFalling)) := rfl

/-- The clock that an operation on it wrote. -/
theorem State.clock_setClock_withResult (s : State) (p : ClockId) (c : PhaseClock) (r : Result) :
    ((s.setClock p c).withResult r).clock p = c := by
  rw [State.clock_withResult, State.clock_setClock]

/-! ### The mapping between phase and time, both ways (rule R136) -/

/-- Inverting and rescaling rounds down twice, so it never exceeds the phase. -/
theorem toPhase_toTime_le (ph p : Nat) : toPhase (toTime ph p) p ≤ ph :=
  Nat.div_le_of_le_mul <| calc
    ph * p / phaseMax * phaseMax ≤ ph * p := Nat.div_mul_le_self _ _
    _ = p * ph := Nat.mul_comm _ _

/-- The time of a phase is a fraction of the period, so a timestamp holds it. -/
theorem toTime_ofNat_toNat {ph : Nat} (hph : ph < phaseMax) (period : Time) :
    (BitVec.ofNat 32 (toTime ph period.toNat)).toNat = toTime ph period.toNat := by
  rw [BitVec.toNat_ofNat, Nat.mod_eq_of_lt (lt_of_le_of_lt (toTime_le ph _ hph) period.isLt)]

/-! ### The predicates (rules R137 to R139) -/

theorem PhaseClock.getState_of_running {c : PhaseClock} (h : c.running = true) :
    c.getState = decide (c.phase.toNat < c.duty.toNat) := by
  rw [PhaseClock.getState, h, Bool.true_and]

theorem PhaseClock.getState_of_duty_zero {c : PhaseClock} (h : c.duty = 0#17) : c.getState = false := by
  simp [PhaseClock.getState, h]

/-- Every phase is below the full duty. -/
theorem PhaseClock.getState_of_duty_full {c : PhaseClock} (h : c.duty = 65536#17) : c.getState = c.running := by
  have hphase : c.phase.toNat < 65536 := c.phase.isLt
  simp [PhaseClock.getState, h, hphase]

theorem PhaseClock.isRising_iff (c : PhaseClock) :
    c.isRising = true ↔ c.previousState = false ∧ c.getState = true := by
  simp [PhaseClock.isRising]

theorem PhaseClock.isFalling_iff (c : PhaseClock) :
    c.isFalling = true ↔ c.previousState = true ∧ c.getState = false := by
  simp [PhaseClock.isFalling]

/-- A clock that reads low falls exactly when its stored previous state is high. -/
theorem PhaseClock.isFalling_of_low {c : PhaseClock} (h : c.getState = false) : c.isFalling = c.previousState := by
  simp [PhaseClock.isFalling, h]

/-- A started clock reads high at once, its phase 0 being below any duty but 0 (rule R140). -/
theorem PhaseClock.getState_start {c : PhaseClock} (h : 0 < c.duty.toNat) (t : Time) : (c.start t).getState = true :=
  (PhaseClock.getState_iff _).2 ⟨rfl, h⟩

/-! ### The anchor that PC.SYNC places (rule R142) -/

theorem PhaseClock.sync_anchor {c : PhaseClock} (h : c.running = true) (target : Duty) :
    ((c.sync target).lastRisingEdgeTime.toNat : Int) =
      (c.lastObservedTime.toNat - (min target.toNat 65535 * c.period.toNat / 65536 : Nat) : Int) % 2 ^ 32 := by
  have hph : min target.toNat 65535 < phaseMax := lt_of_le_of_lt (Nat.min_le_right _ _) (by decide)
  rw [sync_running h, subT_toNat, toTime_ofNat_toNat hph]
  rfl

/-- Without a period every phase is at the same time, that of the last observation. -/
theorem PhaseClock.sync_anchor_of_period_zero {c : PhaseClock} (h : c.running = true) (hp : c.period = 0#32)
    (target : Duty) : (c.sync target).lastRisingEdgeTime = c.lastObservedTime := by
  simp [sync_running h, hp, toTime, subT]

/-! ### What an executed PC.UPDATE writes (rule R143) -/

/-- The phase of an observation: the elapsed time modulo the period, rescaled. -/
theorem PhaseClock.observe_phase_int {c : PhaseClock} (h : c.period ≠ 0#32) (t : Time) :
    ((c.observe t).phase.toNat : Int) =
      (((t.toNat : Int) - c.lastRisingEdgeTime.toNat) % 2 ^ 32 % c.period.toNat) * 65536 / c.period.toNat := by
  rw [← subT_toNat, observe_phase h]
  rfl

/-- The anchor moves exactly when the observed clock, a Running one, goes from low to high. -/
theorem PhaseClock.reanchor_anchor_of_running {c : PhaseClock} (h : c.running = true) (t : Time) :
    (c.reanchor t).lastRisingEdgeTime =
      if c.previousState = false ∧ c.phase.toNat < c.duty.toNat then t else c.lastRisingEdgeTime := by
  rw [reanchor_anchor]
  exact if_congr (by rw [isRising_iff, getState_of_running h, decide_eq_true_eq]) rfl rfl

/-! ### The statements -/

/-- Settles O31: the frame is that of replacing one clock; a Running one takes phase and anchor from the clamped target. -/
theorem pcSyncPlacesAnchor : Obligations.PcSyncPlacesAnchor := by
  intro s p target _
  refine ⟨_, exec_pcSync p target s, rfl, sameExceptClock_setClock s p _ _, ?_⟩
  rw [State.clock_setClock_withResult]
  generalize s.clock p = c
  refine ⟨fun hstopped => PhaseClock.sync_stopped hstopped target, fun hrunning => ?running⟩
  case running =>
    refine ⟨?otherFields, PhaseClock.sync_phase hrunning target, PhaseClock.sync_anchor hrunning target,
      fun hp => PhaseClock.sync_anchor_of_period_zero hrunning hp target⟩
    case otherFields => rw [PhaseClock.sync_running hrunning]

/-- Settles O32: an update that does not execute replaces the clock by itself; one that does observes, then re-anchors, and only
the anchor depends on the edge. -/
theorem pcUpdateRecomputesPhase : Obligations.PcUpdateRecomputesPhase := by
  intro s p t
  refine ⟨fun hidle => ?noop, fun hrunning hperiod => ?executed⟩
  case noop =>
    have hadv := PhaseClock.advances_false hidle
    rw [exec_pcUpdate, PhaseClock.update_noop hadv, State.setClock_self, hadv]
    rfl
  case executed =>
    have hadv := (PhaseClock.advances_iff _).2 ⟨hrunning, hperiod⟩
    refine ⟨_, exec_pcUpdate p t s, congrArg Result.bit hadv, sameExceptClock_setClock s p _ _, ?_⟩
    rw [State.clock_setClock_withResult, PhaseClock.update_advances hadv]
    generalize s.clock p = c at hrunning hperiod
    obtain ⟨operiod, oduty, orunning, oprev, oseen, oanchor⟩ := c.observe_fields t
    obtain ⟨rperiod, rduty, rphase, rrunning, rprev, rseen⟩ := (c.observe t).reanchor_fields t
    refine ⟨rperiod.trans operiod, rduty.trans oduty, rrunning.trans (orunning.trans hrunning), rseen.trans oseen,
      ?previous, ?phase, ?anchor⟩
    case previous => rw [rprev, oprev, PhaseClock.getState_of_running hrunning, decide_eq_true_eq]
    case phase => rw [rphase, PhaseClock.observe_phase_int hperiod]
    case anchor =>
      rw [PhaseClock.reanchor_anchor_of_running (orunning.trans hrunning), rprev, rphase, rduty, oanchor]

/-- Settles O34: both quotients stay below their scale, and inverting and rescaling rounds down. -/
theorem phaseMappingRanges : Obligations.PhaseMappingRanges :=
  ⟨fun _ _ he => ⟨rfl, Nat.le_pred_of_lt (toPhase_lt he)⟩,
    fun ph p hph => ⟨rfl, fun hp => Nat.le_pred_of_lt (toTime_lt (Nat.lt_succ_of_le hph) hp), by simp [toTime],
      toPhase_toTime_le ph p⟩,
    by decide, by decide⟩

/-- Settles O27: at either end of the duty's range the comparison is decided, whatever the phase. -/
theorem pcGetStateIsRunningBelowDuty : Obligations.PcGetStateIsRunningBelowDuty := by
  intro s p
  refine ⟨_, exec_pcGetState p s, PhaseClock.getState_iff _, PhaseClock.getState_of_duty_zero,
    PhaseClock.getState_of_duty_full, fun hrunning hduty => ?worked⟩
  case worked =>
    rw [PhaseClock.getState_of_running hrunning, hduty]
    exact ⟨fun hphase => by rw [hphase]; rfl, fun hphase => by rw [hphase]; rfl⟩

/-- Settles O28: both edges compare the stored previous state with the value that PC.GETSTATE returns. -/
theorem pcEdgePredicatesComparePreviousState : Obligations.PcEdgePredicatesComparePreviousState := by
  intro s p
  refine ⟨_, _, _, exec_pcGetState p s, exec_pcIsRising p s, exec_pcIsFalling p s, PhaseClock.isRising_iff _,
    PhaseClock.isFalling_iff _, fun hrunning hduty => ?worked⟩
  case worked =>
    rw [PhaseClock.isRising_iff, PhaseClock.isFalling_iff, PhaseClock.getState_of_running hrunning, hduty]
    exact ⟨fun hlow hphase => ⟨hlow, by rw [hphase]; rfl⟩, fun hhigh hphase => ⟨hhigh, by rw [hphase]; rfl⟩⟩

/-- Settles O29: a started clock reads high unless its duty is 0, and keeps its previous state. -/
theorem pcStartAnchorsPhaseZero : Obligations.PcStartAnchorsPhaseZero := by
  intro s p t
  refine ⟨_, exec_pcStart p t s, rfl, sameExceptClock_setClock s p _ _, State.clock_setClock_withResult s p _ _,
    fun hduty => ?_⟩
  have hhigh := PhaseClock.getState_start hduty t
  refine ⟨⟨_, exec_pcGetState p _, ?state⟩, fun hlow => ⟨_, exec_pcIsRising p _, ?rising⟩⟩
  case state => rw [State.clock_setClock_withResult, hhigh]; rfl
  case rising =>
    have hrise : ((s.clock p).start t).isRising = true := (PhaseClock.isRising_iff _).2 ⟨hlow, hhigh⟩
    rw [State.clock_setClock_withResult, hrise]; rfl

/-- Settles O30: a Stopped clock reads low, so PC.ISFALLING is the previous state, which PC.STOP keeps. -/
theorem pcStopForcesPhaseZero : Obligations.PcStopForcesPhaseZero := by
  intro s p
  have hlow : (s.clock p).stop.getState = false := PhaseClock.getState_stopped (PhaseClock.stop_running _)
  refine ⟨_, exec_pcStop p s, rfl, sameExceptClock_setClock s p _ _, State.clock_setClock_withResult s p _ _,
    ⟨_, exec_pcGetState p _, ?state⟩, ⟨_, exec_pcIsFalling p _, ?falling⟩⟩
  case state => rw [State.clock_setClock_withResult, hlow]; rfl
  case falling => rw [State.clock_setClock_withResult, PhaseClock.isFalling_of_low hlow]; rfl

/-- Settles O33: the frame of both is that of replacing one clock. -/
theorem pcSettersWriteOneRegister : Obligations.PcSettersWriteOneRegister := by
  refine ⟨fun s p period => ?period, fun s p d => ?duty⟩
  case period =>
    exact ⟨_, exec_pcSetPeriod p period s, rfl, sameExceptClock_setClock s p _ _, State.clock_setClock_withResult s p _ _⟩
  case duty =>
    refine ⟨_, exec_pcSetDuty p d s, rfl, sameExceptClock_setClock s p _ _, ?_⟩
    rw [State.clock_setClock_withResult]
    exact ⟨rfl, PhaseClock.setDuty_duty _ d⟩

end Sys2Proof.Machine
end

section
/-! ### The follower period (rule R177)

A product of 40 bits at most, a division by a term that is not 0, and the store that reduces modulo 2^32. -/

namespace Sys2Proof.Machine

theorem followerPeriod_multiply_toNat (est : Time) (q : Ratio) :
    (followerPeriod true est q).toNat = est.toNat * q.num.toNat / q.den.toNat % 2 ^ 32 :=
  BitVec.toNat_ofNat _ 32

theorem followerPeriod_divide_toNat (est : Time) (q : Ratio) :
    (followerPeriod false est q).toNat = est.toNat * q.den.toNat / q.num.toNat % 2 ^ 32 :=
  BitVec.toNat_ofNat _ 32

theorem estimate_mul_term_lt (est : Time) (n : RatioTerm) : est.toNat * n.toNat < 2 ^ 40 :=
  calc est.toNat * n.toNat
      < 2 ^ 32 * 2 ^ 8 := Nat.mul_lt_mul'' est.isLt n.isLt
    _ = 2 ^ 40 := by norm_num

@[simp] theorem followerPeriod_zero (m : Bool) (q : Ratio) : followerPeriod m 0#32 q = 0#32 := by
  cases m <;> simp [followerPeriod]

/-- Settles O46: the period is the stored quotient, so its number is that quotient modulo 2^32, in the worked examples too. -/
theorem followerPeriodFormula : Obligations.FollowerPeriodFormula := by
  refine ⟨fun est q => ?formula, followerPeriod_zero, fun q => ⟨fun hn hd => ?wraps, fun hn hd => ?vanishes,
    fun hn hd => ?worked⟩⟩
  case formula =>
    exact ⟨followerPeriod_multiply_toNat est q, followerPeriod_divide_toNat est q, estimate_mul_term_lt est q.num,
      estimate_mul_term_lt est q.den⟩
  case wraps => rw [followerPeriod, hn, hd]; rfl
  case vanishes => rw [followerPeriod, hn, hd]; rfl
  case worked => rw [followerPeriod, followerPeriod, hn, hd]; exact ⟨rfl, rfl⟩

end Sys2Proof.Machine
end

section
/-! ### A mode step and its behaviour (rule R160)

A mode step replaces one behaviour by a function of that behaviour, the operands and the constant tables, and returns the
widened state of that behaviour's clock. -/

namespace Sys2Proof.Machine

/-! ### What else a mode step leaves unchanged -/

@[simp] theorem State.runMode_inReady (s : State) (m : ModeId) (x : Forwarded) : (s.runMode m x).inReady = s.inReady := by
  cases m <;> rfl

@[simp] theorem State.runMode_outValid (s : State) (m : ModeId) (x : Forwarded) :
    (s.runMode m x).outValid = s.outValid := by
  cases m <;> rfl

/-! ### Two states that agree on a behaviour -/

/-- The recorded result is no part of a behaviour. -/
theorem sameBehaviour_withResult {m : ModeId} {s t : State} (h : sameBehaviour m s t) (r r' : Result) :
    sameBehaviour m (s.withResult r) (t.withResult r') := by
  cases m <;> exact h

theorem runMode_sameBehaviour {m : ModeId} {s t : State} (h : sameBehaviour m s t) (hc : t.config = s.config)
    (x : Forwarded) : sameBehaviour m (s.runMode m x) (t.runMode m x) := by
  cases m <;> (simp only [sameBehaviour, State.runMode] at h ⊢; rw [h, hc])

theorem sameBehaviour_clock {m : ModeId} {s t : State} (h : sameBehaviour m s t) :
    t.clock (clockOfMode m) = s.clock (clockOfMode m) := by
  cases m with
  | clock => exact congrArg ClockMode.clk h
  | burst => exact congrArg BurstMode.clk h
  | divide => exact congrArg DivMulMode.clk h
  | multiply => exact congrArg DivMulMode.clk h

/-- What a mode step returns depends on nothing but the behaviour. -/
theorem sameBehaviour_modeOut {m : ModeId} {s t : State} (h : sameBehaviour m s t) : t.modeOut m = s.modeOut m := by
  rw [State.modeOut, sameBehaviour_clock h, State.modeOut]

/-- Settles O42: the steps of two states that agree on the behaviour and the tables agree on the behaviour, so on the level
returned; the other behaviours and registers are those before the step. -/
theorem modeStepTouchesOnlyItsBehaviour : Obligations.ModeStepTouchesOnlyItsBehaviour := by
  intro m x s s' h hc
  have hstep : sameBehaviour m (s.runMode m x) (s'.runMode m x) := runMode_sameBehaviour h hc x
  refine ⟨_, _, exec_modeInstr m x s, exec_modeInstr m x s', fun j hj => ?others, by simp, by simp, by simp, by simp,
    by simp, by simp, sameBehaviour_withResult hstep _ _, ?level⟩
  case others => exact sameBehaviour_withResult (runMode_other hj x s) s.result _
  case level => exact congrArg Result.level (sameBehaviour_modeOut hstep)

end Sys2Proof.Machine
end

section
/-! ### MODE.CLOCK line by line (rule R162)

Each line is an operation run by itself, so a line's state is what that operation makes of the state before it. The copy of the
trigger, line 7, is written last: line 8 uses the edge that line 6 found. -/

namespace Sys2Proof.Machine

/-- The state after lines 1 to 4: both knobs read, the curve selected and the period set. -/
def State.clockPeriodSet (s : State) (x : Forwarded) : State :=
  let s1 := (s.setKnob .clkRate ((s.knob .clkRate).update x.rateRaw)).withResult .none
  let s2 := (s1.setKnob .clkRange ((s1.knob .clkRange).update x.rangeRaw)).withResult .none
  let s4 := (s2.setClkRate (s2.clkMode.kRate.setCurve (s2.knob .clkRange).currentIndex)).withResult .none
  (s4.setClock .clk ((s4.clock .clk).setPeriod (s4.clkMode.kRate.value s4.config.tables))).withResult .none

/-- The state after line 5: the clock updated. -/
def State.clockUpdated (s : State) (x : Forwarded) : State :=
  let s6 := s.clockPeriodSet x
  (s6.setClock .clk ((s6.clock .clk).update x.now)).withResult (.bit (s6.clock .clk).advances)

/-- The state after line 8 without line 7: the clock synchronised to phase 0 on a trigger rise. -/
def State.clockSynced (s : State) (x : Forwarded) : State :=
  let s7 := s.clockUpdated x
  if trigRise x.trig s.clkMode.prevTrig then (s7.setClock .clk ((s7.clock .clk).sync 0#17)).withResult .none else s7

theorem State.clockSynced_rise {s : State} {x : Forwarded} (h : trigRise x.trig s.clkMode.prevTrig = true) :
    exec (.pcSync .clk 0#17) (s.clockUpdated x) = .next (s.clockSynced x) := by
  rw [exec_pcSync, State.clockSynced, if_pos h]

theorem State.clockSynced_noRise {s : State} {x : Forwarded} (h : trigRise x.trig s.clkMode.prevTrig = false) :
    s.clockSynced x = s.clockUpdated x :=
  if_neg (Bool.not_eq_true _ ▸ h)

/-- A ClockMode step is these lines and the trigger's copy. -/
theorem State.runMode_clock (s : State) (x : Forwarded) :
    s.runMode .clock x = { s.clockSynced x with
      clkMode := { (s.clockSynced x).clkMode with prevTrig := x.trig }, result := s.result } := by
  cases h : trigRise x.trig s.clkMode.prevTrig <;>
    simp [State.clockSynced, State.clockUpdated, State.clockPeriodSet, State.setKnob, State.setClkRate, State.setClock,
      State.withResult, State.runMode, ClockMode.frameStep, h]

/-- Settles O38: lines 1 to 5 by their operations, line 8 by the trigger's edge, and the level of the clock that line 8 leaves. -/
theorem modeClockRunsItsPseudocode : Obligations.ModeClockRunsItsPseudocode := by
  intro s x
  refine ⟨_, _, _, s.clockPeriodSet x, s.clockUpdated x, s.clockSynced x, _, _, _, _, exec_ckUpdate .clkRate x.rateRaw s,
    exec_qkUpdate .clkRange x.rangeRaw _, exec_qkGetIndex .clkRange _, exec_ckSetCurve_clkRate _ _,
    exec_ckGetValue_clkRate _, exec_pcSetPeriod .clk _ _, exec_pcUpdate .clk x.now _, rfl,
    fun h => State.clockSynced_rise (trigRise_eq_true.2 h), fun h => State.clockSynced_noRise (trigRise_eq_false.2 h),
    exec_pcGetState .clk _, (exec_modeInstr .clock x s).trans ?_⟩
  rw [State.runMode_clock]
  rfl

end Sys2Proof.Machine
end

section
/-! ### MODE.BURST line by line (rule R168)

As for MODE.CLOCK, with two edges: the trigger's and the clock's own. Before the gate count the burst is `beforeCount`, but for the
copy of the trigger, line 6, which is again written last. -/

namespace Sys2Proof.Machine

/-- The state after lines 1 to 3: both knobs read and the period set. -/
def State.burstPeriodSet (s : State) (x : Forwarded) : State :=
  let s1 := (s.setKnob .bstRate ((s.knob .bstRate).update x.rateRaw)).withResult .none
  let s2 := (s1.setKnob .bstRepeat ((s1.knob .bstRepeat).update x.rangeRaw)).withResult .none
  (s2.setClock .bst ((s2.clock .bst).setPeriod (bstRateValue s2.config.tables s2.bstMode.kRate))).withResult .none

/-- Whether line 4, the update of the clock, executes. -/
def State.burstAdvances (s : State) (x : Forwarded) : Bool := ((s.burstPeriodSet x).clock .bst).advances

/-- The state after line 4. -/
def State.burstUpdated (s : State) (x : Forwarded) : State :=
  let s3 := s.burstPeriodSet x
  (s3.setClock .bst ((s3.clock .bst).update x.now)).withResult (.bit (s.burstAdvances x))

/-- The state with the gate count cleared. -/
def State.clearGates (s : State) : State := { s with bstMode := { s.bstMode with gates := 0#8 } }

/-- The state after line 9 without line 6: on a trigger rise the clock started and the gates cleared. -/
def State.burstTriggered (s : State) (x : Forwarded) : State :=
  let s4 := s.burstUpdated x
  if trigRise x.trig s.bstMode.prevTrig then
    ((s4.setClock .bst ((s4.clock .bst).start x.now)).withResult .none).clearGates
  else s4

/-- The repeat count that the knob selects. -/
def State.burstLength (s : State) : RepeatCount :=
  repeatCount s.config.tables s.bstMode.kRepeat.currentIndex.toNat

/-- Lines 11 to 14: the gate is counted, or ends the burst at the repeat count. -/
def State.countGate (s : State) : State :=
  if s.burstLength.toNat ≤ s.bstMode.gates.toNat + 1 then
    ((s.setClock .bst (s.clock .bst).stop).withResult .none).clearGates
  else { s with bstMode := { s.bstMode with gates := s.bstMode.gates + 1#8 } }

/-- The state after line 14: a gate counted when the update executed and the clock falls. -/
def State.burstCounted (s : State) (x : Forwarded) : State :=
  let s9 := s.burstTriggered x
  if s.burstAdvances x && (s9.clock .bst).isFalling then s9.countGate else s9

/-! ### The trigger's edge -/

theorem State.burstTriggered_rise {s : State} {x : Forwarded} (h : trigRise x.trig s.bstMode.prevTrig = true) :
    ∃ u, exec (.pcStart .bst x.now) (s.burstUpdated x) = .next u ∧ s.burstTriggered x = u.clearGates :=
  ⟨_, exec_pcStart .bst x.now _, if_pos h⟩

theorem State.burstTriggered_noRise {s : State} {x : Forwarded} (h : trigRise x.trig s.bstMode.prevTrig = false) :
    s.burstTriggered x = s.burstUpdated x :=
  if_neg (Bool.not_eq_true _ ▸ h)

/-- Up to line 9 the burst alone is written, and as `beforeCount` says. -/
theorem State.burstTriggered_eq (s : State) (x : Forwarded) :
    s.bstMode.beforeCount s.config.tables x (trigRise x.trig s.bstMode.prevTrig) =
      { (s.burstTriggered x).bstMode with prevTrig := x.trig } ∧
    s.burstTriggered x = { s with bstMode := (s.burstTriggered x).bstMode, result := (s.burstTriggered x).result } := by
  cases h : trigRise x.trig s.bstMode.prevTrig <;>
    simp [State.burstTriggered, State.burstUpdated, State.burstPeriodSet, State.clearGates, State.setKnob, State.setClock,
      State.withResult, BurstMode.beforeCount, h]

theorem State.burstTriggered_config (s : State) (x : Forwarded) : (s.burstTriggered x).config = s.config := by
  rw [(s.burstTriggered_eq x).2]

/-! ### The gate count -/

theorem State.countGate_last {s : State} (h : s.burstLength.toNat ≤ s.bstMode.gates.toNat + 1) :
    ∃ u, exec (.pcStop .bst) s = .next u ∧ s.countGate = u.clearGates :=
  ⟨_, exec_pcStop .bst s, if_pos h⟩

theorem State.countGate_more {s : State} (h : s.bstMode.gates.toNat + 1 < s.burstLength.toNat) :
    s.countGate = { s with bstMode := { s.bstMode with gates := s.bstMode.gates + 1#8 } } :=
  if_neg (Nat.not_le.2 h)

/-- The count writes the burst alone, as the model's does, whatever the trigger's copy. -/
theorem State.countGate_eq (s : State) (trig : Bool) :
    ({ s.bstMode with prevTrig := trig } : BurstMode).countGate s.config.tables =
      { s.countGate.bstMode with prevTrig := trig } ∧
    s.countGate = { s with bstMode := s.countGate.bstMode, result := s.countGate.result } := by
  by_cases h : s.burstLength.toNat ≤ s.bstMode.gates.toNat + 1
  · rw [BurstMode.countGate, State.countGate, if_pos h]
    exact ⟨if_pos h, rfl⟩
  · rw [BurstMode.countGate, countGate_more (Nat.not_le.1 h)]
    exact ⟨if_neg h, rfl⟩

theorem State.burstCounted_fall {s : State} {x : Forwarded}
    (h : (s.burstAdvances x && ((s.burstTriggered x).clock .bst).isFalling) = true) :
    s.burstCounted x = (s.burstTriggered x).countGate :=
  if_pos h

theorem State.burstCounted_noFall {s : State} {x : Forwarded}
    (h : (s.burstAdvances x && ((s.burstTriggered x).clock .bst).isFalling) = false) :
    s.burstCounted x = s.burstTriggered x :=
  if_neg (Bool.not_eq_true _ ▸ h)

/-- Up to line 14 the burst alone is written, and as its step says, but for the trigger's copy. -/
theorem State.burstCounted_eq (s : State) (x : Forwarded) :
    s.bstMode.frameStep s.config.tables x = { (s.burstCounted x).bstMode with prevTrig := x.trig } ∧
    s.burstCounted x = { s with bstMode := (s.burstCounted x).bstMode, result := (s.burstCounted x).result } := by
  obtain ⟨hburst, hframe⟩ := s.burstTriggered_eq x
  obtain ⟨hcount, hcountFrame⟩ := (s.burstTriggered x).countGate_eq x.trig
  rw [BurstMode.frameStep_eq, hburst]
  cases h : s.burstAdvances x && ((s.burstTriggered x).clock .bst).isFalling with
  | true =>
    rw [burstCounted_fall h, ← hcount, burstTriggered_config]
    exact ⟨if_pos h, by rw [hcountFrame, hframe]⟩
  | false =>
    rw [burstCounted_noFall h]
    exact ⟨if_neg (Bool.not_eq_true _ ▸ h), hframe⟩

/-- A BurstMode step is these lines and the trigger's copy. -/
theorem State.runMode_burst (s : State) (x : Forwarded) :
    s.runMode .burst x = { s.burstCounted x with
      bstMode := { (s.burstCounted x).bstMode with prevTrig := x.trig }, result := s.result } := by
  obtain ⟨hstep, hframe⟩ := s.burstCounted_eq x
  rw [← hstep, hframe]
  rfl

/-- Settles O39: lines 1 to 4 by their operations, the trigger and the gate count by the edges they depend on, and the level of the
clock that line 14 leaves. -/
theorem modeBurstRunsItsPseudocode : Obligations.ModeBurstRunsItsPseudocode := by
  intro s x
  refine ⟨_, _, s.burstPeriodSet x, s.burstUpdated x, s.burstTriggered x, s.burstCounted x, _, _, _, _,
    (s.burstTriggered x).burstLength, exec_ckUpdate .bstRate x.rateRaw s, exec_qkUpdate .bstRepeat x.rangeRaw _,
    exec_ckGetValue_bstRate _, exec_pcSetPeriod .bst _ _, exec_pcUpdate .bst x.now _, rfl,
    fun h => State.burstTriggered_rise (trigRise_eq_true.2 h), fun h => State.burstTriggered_noRise (trigRise_eq_false.2 h),
    exec_pcIsFalling .bst _, fun c hc => ?entry, fun hfall hlast => ?last, fun hfall hmore => ?more,
    fun h => State.burstCounted_noFall (Bool.and_eq_false_iff.2 h), exec_pcGetState .bst _,
    (exec_modeInstr .burst x s).trans ?step⟩
  case entry => exact repeatCount_of_entry (by rw [State.burstTriggered_config, hc])
  case last =>
    rw [State.burstCounted_fall (Bool.and_eq_true_iff.2 hfall)]
    exact State.countGate_last hlast
  case more => rw [State.burstCounted_fall (Bool.and_eq_true_iff.2 hfall), State.countGate_more hmore]
  case step => rw [State.runMode_burst]; rfl

end Sys2Proof.Machine
end

section
/-! ### MODE.DIVIDE and MODE.MULTIPLY line by line (rules R175, R176)

Both follow `DM_STEP`, so its lines are followed once, for a follower that names its own units and table. -/

namespace Sys2Proof.Machine

/-- The two DivideMultiplyModes, `DIV` and `MUL` (rule R30). -/
inductive Follower where
  | div | mul

/-- The behaviour that the follower is. -/
def Follower.mode : Follower → ModeId
  | .div => .divide
  | .mul => .multiply

/-- Its `kRate`. -/
def Follower.rate : Follower → KnobId
  | .div => .divRate
  | .mul => .mulRate

/-- Its `kRange`. -/
def Follower.range : Follower → KnobId
  | .div => .divRange
  | .mul => .mulRange

/-- Its `clk`. -/
def Follower.clock : Follower → ClockId
  | .div => .div
  | .mul => .mul

/-- Its `X_RATIO`, a constant table. -/
def Follower.table : Follower → Tables → List (List Ratio)
  | .div => Tables.divRatio
  | .mul => Tables.mulRatio

/-- A read of its table. -/
def Follower.ratio : Follower → Tables → Nat → Nat → Ratio
  | .div => divRatio
  | .mul => mulRatio

/-- The state of a follower. -/
def State.follower (s : State) : Follower → DivMulMode
  | .div => s.divMode
  | .mul => s.mulMode

/-- The state with a follower replaced. -/
def State.setFollower (s : State) (i : Follower) (d : DivMulMode) : State :=
  match i with
  | .div => { s with divMode := d }
  | .mul => { s with mulMode := d }

@[simp] theorem State.follower_setFollower (s : State) (i : Follower) (d : DivMulMode) :
    (s.setFollower i d).follower i = d := by
  cases i <;> rfl

@[simp] theorem State.setFollower_setFollower (s : State) (i : Follower) (d d' : DivMulMode) :
    (s.setFollower i d).setFollower i d' = s.setFollower i d' := by
  cases i <;> rfl

@[simp] theorem State.setFollower_config (s : State) (i : Follower) (d : DivMulMode) :
    (s.setFollower i d).config = s.config := by
  cases i <;> rfl

@[simp] theorem State.follower_withResult (s : State) (i : Follower) (r : Result) :
    (s.withResult r).follower i = s.follower i := by
  cases i <;> rfl

@[simp] theorem State.setFollower_withResult (s : State) (i : Follower) (d : DivMulMode) (r : Result) :
    (s.withResult r).setFollower i d = (s.setFollower i d).withResult r := by
  cases i <;> rfl

@[simp] theorem State.withResult_withResult (s : State) (r r' : Result) :
    (s.withResult r).withResult r' = s.withResult r' := rfl

theorem Follower.ratio_of_row (i : Follower) {tb : Tables} {t r : Nat} {row : List Ratio} {q : Ratio}
    (hrow : (i.table tb)[t]? = some row) (hq : row[r]? = some q) : i.ratio tb t r = q := by
  cases i with
  | div => exact divRatio_of_row hrow hq
  | mul => exact mulRatio_of_row hrow hq

/-! ### The lines -/

/-- The state after lines 1 and 2: both knobs read. -/
def State.followerKnobsRead (s : State) (i : Follower) (x : Forwarded) : State :=
  let s1 := (s.setKnob i.rate ((s.knob i.rate).update x.rateRaw)).withResult .none
  (s1.setKnob i.range ((s1.knob i.range).update x.rangeRaw)).withResult .none

/-- The state after line 3: the clock updated. -/
def State.followerUpdated (s : State) (i : Follower) (x : Forwarded) : State :=
  let s2 := s.followerKnobsRead i x
  (s2.setClock i.clock ((s2.clock i.clock).update x.now)).withResult (.bit (s2.clock i.clock).advances)

/-- The ratio that the two knobs select. -/
def State.followerRatio (s : State) (i : Follower) : Ratio :=
  i.ratio s.config.tables (s.follower i).kRange.currentIndex.toNat (s.follower i).kRate.currentIndex.toNat

/-- Lines 8 to 12: the period is set, the clock synchronised to phase 0 and the time of the rise kept. -/
def State.followRise (s : State) (i : Follower) (now : Time) : State :=
  let est := now - (s.follower i).lastInRise
  let u := (s.setClock i.clock
    ((s.clock i.clock).setPeriod (followerPeriod (isMultiply i.mode) est (s.followerRatio i)))).withResult .none
  let v := (u.setClock i.clock ((u.clock i.clock).sync 0#17)).withResult .none
  v.setFollower i { v.follower i with lastInRise := now }

/-- Line 14: the clock is synchronised to its duty. -/
def State.followFall (s : State) (i : Follower) : State :=
  (s.setClock i.clock ((s.clock i.clock).sync (s.follower i).clk.duty)).withResult .none

/-- The state after line 14 without line 6: at most one of the edges is seen. -/
def State.followerSynced (s : State) (i : Follower) (x : Forwarded) : State :=
  let s3 := s.followerUpdated i x
  if trigRise x.trig (s.follower i).prevIn then s3.followRise i x.now
  else if trigFall x.trig (s.follower i).prevIn then s3.followFall i
  else s3

theorem State.followerSynced_rise {s : State} {i : Follower} {x : Forwarded}
    (h : trigRise x.trig (s.follower i).prevIn = true) :
    s.followerSynced i x = (s.followerUpdated i x).followRise i x.now :=
  if_pos h

theorem State.followerSynced_fall {s : State} {i : Follower} {x : Forwarded}
    (h : x.trig = false ∧ (s.follower i).prevIn = true) :
    s.followerSynced i x = (s.followerUpdated i x).followFall i := by
  simp [State.followerSynced, trigRise, trigFall, h]

theorem State.followerSynced_level {s : State} {i : Follower} {x : Forwarded} (h : x.trig = (s.follower i).prevIn) :
    s.followerSynced i x = s.followerUpdated i x := by
  simp [State.followerSynced, trigRise, trigFall, h]

/-! ### The lines and the step of the model -/

theorem State.followerUpdated_eq (s : State) (i : Follower) (x : Forwarded) :
    s.followerUpdated i x =
      (s.setFollower i { s.follower i with
        kRate := (s.follower i).kRate.update x.rateRaw
        kRange := (s.follower i).kRange.update x.rangeRaw
        clk := (s.follower i).clk.update x.now }).withResult (.bit (s.follower i).clk.advances) := by
  cases i <;>
    simp [followerUpdated, followerKnobsRead, setFollower, follower, setKnob, setClock, withResult, Follower.rate,
      Follower.range, Follower.clock]

theorem State.followRise_eq (s : State) (i : Follower) (now : Time) :
    s.followRise i now = (s.setFollower i ((s.follower i).inputRise (followerPeriod (isMultiply i.mode))
      (i.ratio s.config.tables) now)).withResult .none := by
  cases i <;> rfl

theorem State.followFall_eq (s : State) (i : Follower) :
    s.followFall i =
      (s.setFollower i { s.follower i with clk := (s.follower i).clk.sync (s.follower i).clk.duty }).withResult .none := by
  cases i <;> rfl

theorem State.runMode_eq_setFollower (s : State) (i : Follower) (x : Forwarded) :
    s.runMode i.mode x = (s.setFollower i ((s.follower i).frameStep (followerPeriod (isMultiply i.mode))
      (i.ratio s.config.tables) x)).withResult s.result := by
  cases i <;> rfl

/-- A follower's step is these lines and the input's copy. -/
theorem State.runMode_follower (s : State) (i : Follower) (x : Forwarded) :
    s.runMode i.mode x = ((s.followerSynced i x).setFollower i
      { (s.followerSynced i x).follower i with prevIn := x.trig }).withResult s.result := by
  rw [runMode_eq_setFollower]
  cases ht : x.trig <;> cases hp : (s.follower i).prevIn <;>
    simp [followerSynced, followRise_eq, followFall_eq, followerUpdated_eq, DivMulMode.frameStep, DivMulMode.inputRise,
      trigRise, trigFall, ht, hp]

/-- The fifteen lines of `DM_STEP` (rule R175), for either follower. -/
theorem follower_runs_pseudocode (i : Follower) (s : State) (x : Forwarded) :
    ∃ s1 s2 s3 s14 : State, ∃ (adv high : Bool) (q : Ratio),
      exec (.qkUpdate i.rate x.rateRaw) s = .next s1 ∧
      exec (.qkUpdate i.range x.rangeRaw) s1 = .next s2 ∧
      exec (.pcUpdate i.clock x.now) s2 = .next s3 ∧ s3.result = .bit adv ∧
      (∀ row r, (i.table s.config.tables)[(s3.follower i).kRange.currentIndex.toNat]? = some row →
        row[(s3.follower i).kRate.currentIndex.toNat]? = some r → q = r) ∧
      (x.trig = true ∧ (s.follower i).prevIn = false →
        ∃ u v, exec (.pcSetPeriod i.clock
            (followerPeriod (isMultiply i.mode) (x.now - (s.follower i).lastInRise) q)) s3 = .next u ∧
          exec (.pcSync i.clock 0#17) u = .next v ∧
          s14 = v.setFollower i { v.follower i with lastInRise := x.now }) ∧
      (x.trig = false ∧ (s.follower i).prevIn = true →
        exec (.pcSync i.clock (s3.follower i).clk.duty) s3 = .next s14) ∧
      (x.trig = (s.follower i).prevIn → s14 = s3) ∧
      exec (.pcGetState i.clock) s14 = .next { s14 with result := .bit high } ∧
      exec (modeInstr i.mode x) s = .next
        ((s14.setFollower i { s14.follower i with prevIn := x.trig }).withResult
          (.level (if high then 255#8 else 0#8))) := by
  have hconfig : (s.followerUpdated i x).config = s.config := by simp [State.followerUpdated_eq]
  have hlast : ((s.followerUpdated i x).follower i).lastInRise = (s.follower i).lastInRise := by
    simp [State.followerUpdated_eq]
  refine ⟨_, s.followerKnobsRead i x, s.followerUpdated i x, s.followerSynced i x, _, _,
    (s.followerUpdated i x).followerRatio i, exec_qkUpdate i.rate x.rateRaw s, exec_qkUpdate i.range x.rangeRaw _,
    exec_pcUpdate i.clock x.now _, rfl, fun row r hrow hr => ?ratio, fun hrise => ?rise, fun hfall => ?fall,
    State.followerSynced_level, exec_pcGetState i.clock _, (exec_modeInstr i.mode x s).trans ?step⟩
  case ratio => exact i.ratio_of_row (by rw [hconfig, hrow]) hr
  case rise =>
    refine ⟨_, _, exec_pcSetPeriod i.clock _ _, exec_pcSync i.clock _ _, ?_⟩
    rw [State.followerSynced_rise (trigRise_eq_true.2 hrise), ← hlast]
    rfl
  case fall => rw [State.followerSynced_fall hfall]; exact exec_pcSync i.clock _ _
  case step =>
    rw [State.runMode_follower]
    cases i <;> rfl

/-- Settles O40: `DM_STEP` of `DIV`, whose period is the divide formula. -/
theorem modeDivideRunsItsPseudocode : Obligations.ModeDivideRunsItsPseudocode :=
  follower_runs_pseudocode .div

/-- Settles O41: `DM_STEP` of `MUL`, whose period is the multiply formula. -/
theorem modeMultiplyRunsItsPseudocode : Obligations.ModeMultiplyRunsItsPseudocode :=
  follower_runs_pseudocode .mul

end Sys2Proof.Machine
end

section
/-! ### FRAME line by line (rule R191)

FRAME is three lines: QK.UPDATE of the mode knob, the mode step that the knob's new index selects, and the write of the
output register. The first two are operations of their own and record a result, which a mode step neither reads nor
keeps, so the result of the first leaves no trace. -/

namespace Sys2Proof.Machine

/-! ### A mode step does not read the recorded result -/

theorem State.runMode_withResult (s : State) (r : Result) (m : ModeId) (x : Forwarded) :
    (s.withResult r).runMode m x = (s.runMode m x).withResult r := by
  cases m <;> rfl

theorem State.modeOut_withResult (s : State) (r : Result) (m : ModeId) : (s.withResult r).modeOut m = s.modeOut m := by
  cases m <;> rfl

/-! ### The assignment of the mode indices (rule R192) -/

@[simp] theorem modeOfIndex_zero : modeOfIndex 0#4 = .clock := rfl
@[simp] theorem modeOfIndex_one : modeOfIndex 1#4 = .burst := rfl
@[simp] theorem modeOfIndex_two : modeOfIndex 2#4 = .divide := rfl
@[simp] theorem modeOfIndex_three : modeOfIndex 3#4 = .multiply := rfl

/-! ### The lines of FRAME -/

/-- The state after QK.UPDATE of the mode knob with the frame's mode reading. -/
def State.modeQuantised (s : State) (f : Frame) : State :=
  (s.setKnob .msMode ((s.knob .msMode).update f.modeRaw)).withResult .none

/-- The state after the mode step that the quantised reading selects. -/
def State.selectedStepped (s : State) (f : Frame) : State :=
  (s.modeQuantised f).runMode (s.selected f) f.forwarded

theorem State.selected_of_index {s : State} {f : Frame} {i : Index} (h : (s.modeQuantised f).kMode.currentIndex = i) :
    s.selected f = modeOfIndex i :=
  congrArg modeOfIndex h

/-- FRAME is the first two lines and the write of the output register, the result and the handshake. -/
theorem State.frameStep_eq (s : State) (f : Frame) :
    s.frameStep f = { s.selectedStepped f with
      outLevel := (s.selectedStepped f).modeOut (s.selected f)
      outValid := true
      inReady := true
      result := .level ((s.selectedStepped f).modeOut (s.selected f)) } := by
  rw [selectedStepped, modeQuantised, runMode_withResult, modeOut_withResult]
  rfl

/-- Settles O48: the selected mode step runs on the state after QK.UPDATE of the mode knob, and FRAME adds to the state after
it only the output register and the handshake. -/
theorem frameRunsTheSelectedModeStep : Obligations.FrameRunsTheSelectedModeStep := by
  intro s f
  refine ⟨s.modeQuantised f, _, s.frameStep f, s.selected f, _, exec_qkUpdate .msMode f.modeRaw s, fun h => ?clock,
    fun h => ?burst, fun h => ?divide, fun h => ?multiply, exec_modeInstr (s.selected f) f.forwarded _, rfl,
    exec_frame f s, ?output⟩
  case clock => exact (State.selected_of_index h).trans modeOfIndex_zero
  case burst => exact (State.selected_of_index h).trans modeOfIndex_one
  case divide => exact (State.selected_of_index h).trans modeOfIndex_two
  case multiply => exact (State.selected_of_index h).trans modeOfIndex_three
  case output => rw [State.frameStep_eq]; rfl

end Sys2Proof.Machine
end

section
/-! ### Command words, both ways (rules R87, R88)

Each operation has one of five word formats: a unit operation without, with one or with two operands, FRAME, and a mode step.
A format is read forwards (what its reader answers on the encoder's word) and backwards (which word its reader accepted) once;
the two round trips then only name the format of each opid. -/

namespace Sys2Proof

/-! ### The formats forwards -/

theorem decodeUnit0_unitWord {α : Type} {unit : BitVec 8 → Except DecodeError α} {u : BitVec 8} {a : α}
    (hu : unit u = .ok a) (op : BitVec 8) (mk : α → Instr) :
    decodeUnit0 unit (unitWord op u 0#32 0#32) mk = .ok (mk a) := by
  simp [decodeUnit0, hu, Except.bind]

theorem decodeUnit1_unitWord {α : Type} {unit : BitVec 8 → Except DecodeError α} {u : BitVec 8} {a : α} {n : Nat}
    {field : BitVec 32} {x : BitVec n} (hu : unit u = .ok a) (hx : narrow n field = .ok x) (op : BitVec 8)
    (mk : α → BitVec n → Instr) : decodeUnit1 unit n (unitWord op u field 0#32) mk = .ok (mk a x) := by
  simp [decodeUnit1, hu, hx, Except.bind]

theorem decodeUnit2_unitWord {α : Type} {unit : BitVec 8 → Except DecodeError α} {u : BitVec 8} {a : α} {n m : Nat}
    {field field' : BitVec 32} {x : BitVec n} {y : BitVec m} (hu : unit u = .ok a) (hx : narrow n field = .ok x)
    (hy : narrow m field' = .ok y) (op : BitVec 8) (mk : α → BitVec n → BitVec m → Instr) :
    decodeUnit2 unit n m (unitWord op u field field') mk = .ok (mk a x y) := by
  simp [decodeUnit2, hu, hx, hy, Except.bind]

theorem decodeFrame_frameCmdWord (op : BitVec 8) (F : FrameWord) :
    decodeFrame (frameCmdWord op F) = .ok (.frame (frameOfWord F)) := by
  simp [decodeFrame]

theorem decodeMode_frameCmdWord (op : BitVec 8) (x : Forwarded) (mk : Forwarded → Instr) :
    decodeMode (frameCmdWord op (forwardedToWord x)) mk = .ok (mk x) := by
  simp [decodeMode, forwardedToWord, frameOfWord_frameToWord, Except.bind, Frame.forwarded]

/-- The operand `nv` in its field, which holds it less one. -/
theorem exists_bucketsField {nv : Buckets} (h : bucketsLegal nv = true) :
    ∃ x : BitVec 4, narrow 4 ((nv - 1#5).setWidth 32) = .ok x ∧ bucketsOfField x = nv := by
  have hmap := narrow_bucketsField nv h
  cases hx : narrow 4 ((nv - 1#5).setWidth 32) with
  | ok x =>
    rw [hx] at hmap
    exact ⟨x, rfl, Except.ok.inj hmap⟩
  | error e =>
    rw [hx] at hmap
    cases hmap

/-- The decoder gives back every well-formed operation. -/
theorem decode_encode {i : Instr} (h : i.wf = true) : decode (encode i) = .ok i := by
  cases i with
  | qkGetIndex k | qkGetRaw k =>
    rw [encode, decode, opField_unitWord]
    exact decodeUnit0_unitWord (knobOfUnit_unitOfKnob k) _ _
  | ckGetValue c =>
    rw [encode, decode, opField_unitWord]
    exact decodeUnit0_unitWord (curveOfUnit_unitOfCurve c) _ _
  | pcStop p | pcGetState p | pcIsRising p | pcIsFalling p =>
    rw [encode, decode, opField_unitWord]
    exact decodeUnit0_unitWord (clockOfUnit_unitOfClock p) _ _
  | qkUpdate k raw =>
    rw [encode, decode, opField_unitWord]
    exact decodeUnit1_unitWord (knobOfUnit_unitOfKnob k) (narrow_setWidth (by decide) raw) _ _
  | ckUpdate c raw =>
    rw [encode, decode, opField_unitWord]
    exact decodeUnit1_unitWord (curveOfUnit_unitOfCurve c) (narrow_setWidth (by decide) raw) _ _
  | ckSetCurve c sel =>
    have hunit : selectorOfUnit (unitOfCurve c) = .ok c := by
      cases c with
      | clkRate => rfl
      | bstRate => cases h
    rw [encode, decode, opField_unitWord]
    exact decodeUnit1_unitWord hunit (narrow_setWidth (by decide) sel) _ _
  | pcStart p t | pcUpdate p t | pcSetPeriod p t =>
    rw [encode, decode, opField_unitWord]
    exact decodeUnit1_unitWord (clockOfUnit_unitOfClock p) (narrow_full t) _ _
  | pcSync p d | pcSetDuty p d =>
    rw [encode, decode, opField_unitWord]
    exact decodeUnit1_unitWord (clockOfUnit_unitOfClock p) (narrow_setWidth (by decide) d) _ _
  | qkMapIndex k a b | qkMapInnerRaw k a b =>
    rw [encode, decode, opField_unitWord]
    exact decodeUnit2_unitWord (knobOfUnit_unitOfKnob k) (narrow_full a) (narrow_full b) _ _
  | qkConfig k nv hyst =>
    obtain ⟨x, hx, rfl⟩ := exists_bucketsField h
    rw [encode, decode, opField_unitWord]
    exact decodeUnit2_unitWord (knobOfUnit_unitOfKnob k) hx (narrow_setWidth (by decide) hyst) _ _
  | reset => rfl
  | frame f =>
    rw [encode, decode, opField_frameCmdWord]
    exact (decodeFrame_frameCmdWord _ _).trans (by rw [frameOfWord_frameToWord])
  | modeClock x | modeBurst x | modeDivide x | modeMultiply x =>
    rw [encode, decode, opField_frameCmdWord]
    exact decodeMode_frameCmdWord _ x _

/-! ### The formats backwards -/

theorem encode_of_decodeUnit0 {α : Type} {unit : BitVec 8 → Except DecodeError α} {w : CmdWord} {mk : α → Instr}
    {i : Instr} (op : BitVec 8) (hop : (opField w).toNat = op.toNat) (h : decodeUnit0 unit w mk = .ok i)
    (hmk : ∀ {a}, unit (unitField w) = .ok a →
      encode (mk a) = unitWord op (unitField w) 0#32 0#32 ∧ (mk a).wf = true) :
    encode i = w ∧ i.wf = true := by
  obtain ⟨a, hu, h⟩ := bind_eq_ok h
  obtain ⟨_, hx, h⟩ := bind_eq_ok h
  obtain ⟨hx, -⟩ := whenZero_eq_ok hx
  obtain ⟨hy, rfl⟩ := whenZero_eq_ok h
  obtain ⟨hencode, hwf⟩ := hmk hu
  refine ⟨?_, hwf⟩
  rw [hencode, ← BitVec.eq_of_toNat_eq hop]
  calc unitWord (opField w) (unitField w) 0#32 0#32
      = unitWord (opField w) (unitField w) (argField1 w) (argField2 w) := by rw [hx, hy]
    _ = w := unitWord_fields w

theorem encode_of_decodeUnit1 {α : Type} {unit : BitVec 8 → Except DecodeError α} {n : Nat} {w : CmdWord}
    {mk : α → BitVec n → Instr} {i : Instr} (op : BitVec 8) (hop : (opField w).toNat = op.toNat)
    (h : decodeUnit1 unit n w mk = .ok i)
    (hmk : ∀ {a x}, unit (unitField w) = .ok a →
      encode (mk a x) = unitWord op (unitField w) (x.setWidth 32) 0#32 ∧ (mk a x).wf = true) :
    encode i = w ∧ i.wf = true := by
  obtain ⟨a, hu, h⟩ := bind_eq_ok h
  obtain ⟨x, hx, h⟩ := bind_eq_ok h
  obtain ⟨hy, rfl⟩ := whenZero_eq_ok h
  obtain ⟨hencode, hwf⟩ := hmk (x := x) hu
  refine ⟨?_, hwf⟩
  rw [hencode, ← BitVec.eq_of_toNat_eq hop, ← narrow_eq_ok hx, ← hy, unitWord_fields]

theorem encode_of_decodeUnit2 {α : Type} {unit : BitVec 8 → Except DecodeError α} {n m : Nat} {w : CmdWord}
    {mk : α → BitVec n → BitVec m → Instr} {i : Instr} (op : BitVec 8) (hop : (opField w).toNat = op.toNat)
    (h : decodeUnit2 unit n m w mk = .ok i)
    (hmk : ∀ {a x y}, unit (unitField w) = .ok a →
      encode (mk a x y) = unitWord op (unitField w) (x.setWidth 32) (y.setWidth 32) ∧ (mk a x y).wf = true) :
    encode i = w ∧ i.wf = true := by
  obtain ⟨a, hu, h⟩ := bind_eq_ok h
  obtain ⟨x, hx, h⟩ := bind_eq_ok h
  obtain ⟨y, hy, h⟩ := bind_eq_ok h
  cases h
  obtain ⟨hencode, hwf⟩ := hmk (x := x) (y := y) hu
  refine ⟨?_, hwf⟩
  rw [hencode, ← BitVec.eq_of_toNat_eq hop, ← narrow_eq_ok hx, ← narrow_eq_ok hy, unitWord_fields]

/-- A word whose top bits are zero is packed from its opid byte and its frame word. -/
theorem frameCmdWord_fields {w : CmdWord} (h : (restField w).extractLsb' 63 9 = 0#9) :
    w = frameCmdWord (opField w) ((restField w).extractLsb' 0 63) := by
  have hrest : 0#9 ++ (restField w).extractLsb' 0 63 = restField w := by
    rw [← h, BitVec.extractLsb'_append_extractLsb'_eq_extractLsb' (by rfl)]
    exact BitVec.extractLsb'_eq_self
  rw [frameCmdWord, hrest, restField_append_opField]

theorem encode_of_decodeFrame {w : CmdWord} {i : Instr} (hop : (opField w).toNat = 0x1B) (h : decodeFrame w = .ok i) :
    encode i = w ∧ i.wf = true := by
  obtain ⟨htop, rfl⟩ := whenZero_eq_ok h
  refine ⟨?_, rfl⟩
  have hop : opField w = 0x1B#8 := BitVec.eq_of_toNat_eq hop
  rw [encode, frameToWord_frameOfWord, ← hop, ← frameCmdWord_fields htop]

theorem encode_of_decodeMode {w : CmdWord} {mk : Forwarded → Instr} {i : Instr} (op : BitVec 8)
    (hop : (opField w).toNat = op.toNat) (h : decodeMode w mk = .ok i)
    (hmk : ∀ x, encode (mk x) = frameCmdWord op (forwardedToWord x) ∧ (mk x).wf = true) :
    encode i = w ∧ i.wf = true := by
  obtain ⟨_, htop, h⟩ := bind_eq_ok h
  obtain ⟨htop, -⟩ := whenZero_eq_ok htop
  obtain ⟨hmode, rfl⟩ := whenZero_eq_ok h
  obtain ⟨hencode, hwf⟩ := hmk (frameOfWord ((restField w).extractLsb' 0 63)).forwarded
  refine ⟨?_, hwf⟩
  rw [hencode, ← BitVec.eq_of_toNat_eq hop, forwardedToWord, ← hmode]
  exact (congrArg _ (frameToWord_frameOfWord _)).trans (frameCmdWord_fields htop).symm

/-- A bucket count that a field of `nv - 1` stands for is legal and has that field. -/
theorem bucketsOfField_legal (x : BitVec 4) :
    bucketsLegal (bucketsOfField x) = true ∧ (bucketsOfField x - 1#5).setWidth 32 = x.setWidth 32 := by
  revert x; decide

/-- Every word that decodes is the encoding of what it decodes to, and that is well-formed. -/
theorem encode_of_decode {w : CmdWord} {i : Instr} (h : decode w = .ok i) : encode i = w ∧ i.wf = true := by
  unfold decode at h
  split at h
  case h_1 hop => exact encode_of_decodeUnit1 0x00#8 hop h fun hu => knobOfUnit_eq_ok hu ▸ ⟨rfl, rfl⟩
  case h_2 hop => exact encode_of_decodeUnit0 0x01#8 hop h fun hu => knobOfUnit_eq_ok hu ▸ ⟨rfl, rfl⟩
  case h_3 hop => exact encode_of_decodeUnit0 0x02#8 hop h fun hu => knobOfUnit_eq_ok hu ▸ ⟨rfl, rfl⟩
  case h_4 hop => exact encode_of_decodeUnit2 0x03#8 hop h fun hu => knobOfUnit_eq_ok hu ▸ ⟨rfl, rfl⟩
  case h_5 hop => exact encode_of_decodeUnit2 0x04#8 hop h fun hu => knobOfUnit_eq_ok hu ▸ ⟨rfl, rfl⟩
  case h_6 hop =>
    refine encode_of_decodeUnit2 0x05#8 hop h fun {k x hyst} hu => ?_
    obtain ⟨hlegal, hfield⟩ := bucketsOfField_legal x
    rw [encode, hfield, knobOfUnit_eq_ok hu]
    exact ⟨rfl, hlegal⟩
  case h_7 hop => exact encode_of_decodeUnit1 0x08#8 hop h fun hu => curveOfUnit_eq_ok hu ▸ ⟨rfl, rfl⟩
  case h_8 hop =>
    refine encode_of_decodeUnit1 0x09#8 hop h fun hu => ?_
    obtain ⟨rfl, hunit⟩ := selectorOfUnit_eq_ok hu
    exact hunit ▸ ⟨rfl, rfl⟩
  case h_9 hop => exact encode_of_decodeUnit0 0x0A#8 hop h fun hu => curveOfUnit_eq_ok hu ▸ ⟨rfl, rfl⟩
  case h_10 hop => exact encode_of_decodeUnit1 0x10#8 hop h fun hu => clockOfUnit_eq_ok hu ▸ ⟨rfl, rfl⟩
  case h_11 hop => exact encode_of_decodeUnit0 0x11#8 hop h fun hu => clockOfUnit_eq_ok hu ▸ ⟨rfl, rfl⟩
  case h_12 hop => exact encode_of_decodeUnit1 0x12#8 hop h fun hu => clockOfUnit_eq_ok hu ▸ ⟨rfl, rfl⟩
  case h_13 hop => exact encode_of_decodeUnit1 0x13#8 hop h fun hu => clockOfUnit_eq_ok hu ▸ ⟨rfl, rfl⟩
  case h_14 hop => exact encode_of_decodeUnit1 0x14#8 hop h fun hu => clockOfUnit_eq_ok hu ▸ ⟨rfl, rfl⟩
  case h_15 hop => exact encode_of_decodeUnit1 0x15#8 hop h fun hu => clockOfUnit_eq_ok hu ▸ ⟨rfl, rfl⟩
  case h_16 hop => exact encode_of_decodeUnit0 0x16#8 hop h fun hu => clockOfUnit_eq_ok hu ▸ ⟨rfl, rfl⟩
  case h_17 hop => exact encode_of_decodeUnit0 0x17#8 hop h fun hu => clockOfUnit_eq_ok hu ▸ ⟨rfl, rfl⟩
  case h_18 hop => exact encode_of_decodeUnit0 0x18#8 hop h fun hu => clockOfUnit_eq_ok hu ▸ ⟨rfl, rfl⟩
  case h_19 hop =>
    obtain ⟨hrest, rfl⟩ := whenZero_eq_ok h
    have hop : opField w = 0x1A#8 := BitVec.eq_of_toNat_eq hop
    rw [← restField_append_opField w, hrest, hop]
    exact ⟨rfl, rfl⟩
  case h_20 hop => exact encode_of_decodeFrame hop h
  case h_21 hop => exact encode_of_decodeMode 0x1C#8 hop h fun x => ⟨rfl, rfl⟩
  case h_22 hop => exact encode_of_decodeMode 0x1D#8 hop h fun x => ⟨rfl, rfl⟩
  case h_23 hop => exact encode_of_decodeMode 0x1E#8 hop h fun x => ⟨rfl, rfl⟩
  case h_24 hop => exact encode_of_decodeMode 0x1F#8 hop h fun x => ⟨rfl, rfl⟩
  case h_25 => split at h <;> cases h

/-! ### The statements -/

/-- Settles O1: each operation's word is read by the reader of its format. -/
theorem decodeEncodeRoundTrip : Obligations.DecodeEncodeRoundTrip := fun _ h => decode_encode h

/-- Settles O2: each reader accepts only the word its format packs, and the two units and counts that are not well-formed have
no word. -/
theorem decodedWordIsItsEncoding : Obligations.DecodedWordIsItsEncoding := fun _ _ h => encode_of_decode h

/-- Settles O4: FRAME's word is read whatever its frame word; an unassigned opid is none that the decoder reads. -/
theorem everyFrameLegalAndUnassignedOpidsRejected : Obligations.EveryFrameLegalAndUnassignedOpidsRejected := by
  refine ⟨fun F => ?frame, fun w n hn hop => ?unassigned⟩
  case frame =>
    rw [decode, opField_frameCmdWord]
    exact decodeFrame_frameCmdWord _ F
  case unassigned =>
    simp only [List.mem_cons, List.not_mem_nil, or_false] at hn
    rw [decode, hop]
    rcases hn with rfl | rfl | rfl | rfl | rfl | rfl | rfl | rfl <;> rfl

/-- Settles O5: each of the eight words is a numeral, so the decoder computes its answer. -/
theorem tableWordsDecodeToTheirOperations : Obligations.TableWordsDecodeToTheirOperations := by
  unfold Obligations.TableWordsDecodeToTheirOperations
  decide

end Sys2Proof
end

section
/-! ### One step (rules R85, R205, R217, R225)

A step answers the oldest entry of the input list, which is a command word or a clock edge; with none it is idle. A command word
that decodes is a well-formed operation, and a well-formed operation completes from every state. -/

namespace Sys2Proof.Machine

/-! ### What a step answers -/

theorem step_nil {s : State} (h : s.input = []) : step s = .next s.idle := by
  rw [step, advance, h]

theorem step_word {s : State} {w : CmdWord} {rest : List Input} (h : s.input = .word w :: rest) :
    step s = runWord w { s with input := rest } := by
  rw [step, advance, h]

theorem step_edge {s : State} {p : PortSample} {rest : List Input} (h : s.input = .edge p :: rest) :
    step s = runEdge p { s with input := rest } := by
  rw [step, advance, h]

theorem runWord_of_decode {w : CmdWord} {i : Instr} (h : decode w = .ok i) (s : State) : runWord w s = exec i s := by
  rw [runWord, h]

theorem decodeTableWord_eq_some {nbits w : Nat} {i : Instr} (h : decodeTableWord nbits w = some i) :
    decode (tableWord nbits w) = .ok i := by
  unfold decodeTableWord at h
  split at h
  · rename_i heq
    rw [heq, Option.some.inj h]
  · cases h

/-! ### The three answers to a clock edge -/

theorem runEdge_reset {p : PortSample} (h : p.rst = true) (s : State) : runEdge p s = exec .reset s := if_pos h

theorem runEdge_accept {p : PortSample} {s : State} (hrst : p.rst = false) (hvalid : p.inValid = true)
    (hready : s.inReady = true) : runEdge p s = exec (.frame p.frame) s := by
  simp [runEdge, hrst, hvalid, hready]

theorem runEdge_idle {p : PortSample} {s : State} (hrst : p.rst = false) (h : p.inValid = false ∨ s.inReady = false) :
    runEdge p s = .next s.idle := by
  have hno : (p.inValid && s.inReady) = false := Bool.and_eq_false_iff.2 h
  simp [runEdge, hrst, hno]

/-! ### Operations that complete, and the two that are refused -/

theorem exec_qkConfig_illegal {nv : Buckets} (hnv : bucketsLegal nv = false) (k : KnobId) (h : Margin) (s : State) :
    exec (.qkConfig k nv h) s = .refused .illegalNumValues :=
  dif_neg (Bool.not_eq_true _ ▸ hnv)

theorem exec_ckSetCurve_bstRate (sel : Index) (s : State) :
    exec (.ckSetCurve .bstRate sel) s = .refused .noCurveSelector := rfl

/-- Every well-formed operation completes from every state (rule R205). -/
theorem exec_completes {i : Instr} (h : i.wf = true) (s : State) : ∃ t, exec i s = .next t := by
  cases i with
  | qkConfig k nv hyst => exact ⟨_, exec_qkConfig h k hyst s⟩
  | ckSetCurve c sel =>
    cases c with
    | clkRate => exact ⟨_, exec_ckSetCurve_clkRate sel s⟩
    | bstRate => cases h
  | ckGetValue c =>
    cases c with
    | clkRate => exact ⟨_, exec_ckGetValue_clkRate s⟩
    | bstRate => exact ⟨_, exec_ckGetValue_bstRate s⟩
  | qkUpdate | qkGetIndex | qkGetRaw | qkMapIndex | qkMapInnerRaw | ckUpdate | pcStart | pcStop | pcSync | pcUpdate
  | pcSetPeriod | pcSetDuty | pcGetState | pcIsRising | pcIsFalling | reset | frame | modeClock | modeBurst | modeDivide
  | modeMultiply => exact ⟨_, rfl⟩

/-- PC.SYNC depends on its operand through the clamped target alone. -/
theorem PhaseClock.sync_congr {target target' : Duty} (h : min target.toNat 65535 = min target'.toNat 65535)
    (c : PhaseClock) : c.sync target = c.sync target' := by
  cases hr : c.running with
  | true => rw [sync_running hr, sync_running hr, h]
  | false => rw [sync_stopped hr, sync_stopped hr]

/-! ### The statements -/

/-- Settles O6: a command word is answered by the operation it decodes to. -/
theorem stepRunsDecodedInstruction : Obligations.StepRunsDecodedInstruction := by
  intro s w rest i hin hdec
  rw [step_word hin, runWord_of_decode hdec]

/-- Settles O7: the word stands before all other inputs, so taking it leaves the state it was placed in. -/
theorem fetchedTableWordRuns : Obligations.FetchedTableWordRuns := by
  intro s nbits w i h
  have hin : (s.withFetchWord nbits w).input = .word (tableWord nbits w) :: s.input := rfl
  rw [step_word hin]
  exact runWord_of_decode (decodeTableWord_eq_some h) s

/-- Settles O8: the three answers to a clock edge. -/
theorem clockEdgeAcceptsOrResets : Obligations.ClockEdgeAcceptsOrResets := by
  intro s p rest hin
  rw [step_edge hin]
  exact ⟨fun hrst => runEdge_reset hrst _, fun hrst hvalid hready => runEdge_accept hrst hvalid hready,
    fun hrst h => runEdge_idle hrst h⟩

/-- Settles O9: with no input a step is idle. -/
theorem idleHoldsState : Obligations.IdleHoldsState := fun _ h => step_nil h

/-- Settles O10: a word that decodes is the encoding of a well-formed operation, and those complete. -/
theorem everyOperationCompletes : Obligations.EveryOperationCompletes :=
  ⟨fun _ s h => exec_completes h s, fun _ _ s h => exec_completes (encode_of_decode h).2 s⟩

/-- Settles O11: an illegal `nv` is none of 1..16. -/
theorem illFormedOperationsAreRefused : Obligations.IllFormedOperationsAreRefused := by
  refine ⟨fun k nv h s hnv => ?config, exec_ckSetCurve_bstRate⟩
  case config =>
    have hillegal : bucketsLegal nv = false := by
      rw [← Bool.not_eq_true, bucketsLegal_iff]
      rcases hnv with rfl | hlarge
      · decide
      · omega
    exact exec_qkConfig_illegal hillegal k h s

/-- Settles O24: a selector stays in its range by its type and CK.SETCURVE writes nothing else; above 65536 the clamped target is
that of 65536. -/
theorem operandsOutOfRangeStillComplete : Obligations.OperandsOutOfRangeStillComplete := by
  refine ⟨fun s sel _ => ?selector, fun s p target htarget => ?target⟩
  case selector =>
    exact ⟨_, exec_ckSetCurve_clkRate sel s, (s.clkMode.kRate.setCurve sel).inRange, rfl, setCurve_frame s sel .none⟩
  case target =>
    have hclamped : min target.toNat 65535 = min (65536#17).toNat 65535 := by
      have : (65536#17).toNat = 65536 := rfl
      omega
    refine ⟨_, exec_pcSync p target s, ?_⟩
    rw [PhaseClock.sync_congr hclamped, exec_pcSync]

/-- Settles O49: both write the flags. -/
theorem handshakeFlagsAfterFrameAndReset : Obligations.HandshakeFlagsAfterFrameAndReset := fun s =>
  ⟨fun f => ⟨_, exec_frame f s, rfl, rfl⟩, _, exec_reset s, rfl, rfl⟩

/-- Settles O54: a knob after RESET has the bucket count and the margin it had. -/
theorem resetKeepsConfiguration : Obligations.ResetKeepsConfiguration := by
  intro s
  refine ⟨_, exec_reset s, rfl, rfl, rfl, fun k => ?knob⟩
  case knob =>
    rw [State.knob_toReset]
    exact ⟨QuantizedKnob.toReset_numValues _, QuantizedKnob.toReset_hysteresis _⟩

end Sys2Proof.Machine
end

section
/-! ### What a mode step and FRAME do to the knobs and the duties (rules R32, R160)

A mode step reads some knobs with QK.UPDATE and leaves the others, and writes no duty. FRAME does the same to the mode knob first.
So whatever QK.UPDATE keeps of a knob, a frame keeps of every knob. -/

namespace Sys2Proof.Machine

/-! ### Knobs -/

/-- A mode step leaves a knob or updates it with some reading. -/
theorem State.knob_runMode (s : State) (m : ModeId) (x : Forwarded) (k : KnobId) :
    (s.runMode m x).knob k = s.knob k ∨ ∃ raw, (s.runMode m x).knob k = (s.knob k).update raw := by
  cases m with
  | clock =>
    cases k with
    | clkRate => exact .inr ⟨x.rateRaw, rfl⟩
    | clkRange => exact .inr ⟨x.rangeRaw, rfl⟩
    | msMode | bstRate | bstRepeat | divRate | divRange | mulRate | mulRange => exact .inl rfl
  | burst =>
    obtain ⟨hrate, hrepeat, -⟩ := s.bstMode.frameStep_knobs s.config.tables x
    cases k with
    | bstRate => exact .inr ⟨x.rateRaw, hrate⟩
    | bstRepeat => exact .inr ⟨x.rangeRaw, hrepeat⟩
    | msMode | clkRate | clkRange | divRate | divRange | mulRate | mulRange => exact .inl rfl
  | divide =>
    obtain ⟨hrate, hrange, -⟩ := s.divMode.frameStep_knobs (followerPeriod (isMultiply .divide)) (divRatio s.config.tables) x
    cases k with
    | divRate => exact .inr ⟨x.rateRaw, hrate⟩
    | divRange => exact .inr ⟨x.rangeRaw, hrange⟩
    | msMode | clkRate | clkRange | bstRate | bstRepeat | mulRate | mulRange => exact .inl rfl
  | multiply =>
    obtain ⟨hrate, hrange, -⟩ := s.mulMode.frameStep_knobs (followerPeriod (isMultiply .multiply)) (mulRatio s.config.tables) x
    cases k with
    | mulRate => exact .inr ⟨x.rateRaw, hrate⟩
    | mulRange => exact .inr ⟨x.rangeRaw, hrange⟩
    | msMode | clkRate | clkRange | bstRate | bstRepeat | divRate | divRange => exact .inl rfl

/-- FRAME leaves a knob or updates it with some reading. -/
theorem State.knob_frameStep (s : State) (f : Frame) (k : KnobId) :
    (s.frameStep f).knob k = s.knob k ∨ ∃ raw, (s.frameStep f).knob k = (s.knob k).update raw := by
  by_cases hk : k = .msMode
  · subst hk
    exact .inr ⟨f.modeRaw, State.runMode_kMode _ _ _⟩
  · have hq : (s.modeQuantised f).knob k = s.knob k :=
      (State.knob_withResult _ _ k).trans (State.knob_setKnob_of_ne s hk _)
    have hrun := (s.modeQuantised f).knob_runMode (s.selected f) f.forwarded k
    have hlast : (s.frameStep f).knob k = (s.selectedStepped f).knob k := by
      rw [State.frameStep_eq]
      cases k <;> rfl
    rw [hlast, ← hq]
    exact hrun

theorem State.frameStep_numValues (s : State) (f : Frame) (k : KnobId) :
    ((s.frameStep f).knob k).numValues = (s.knob k).numValues := by
  obtain h | ⟨raw, h⟩ := s.knob_frameStep f k <;> simp [h]

theorem State.frameStep_hysteresis (s : State) (f : Frame) (k : KnobId) :
    ((s.frameStep f).knob k).hysteresis = (s.knob k).hysteresis := by
  obtain h | ⟨raw, h⟩ := s.knob_frameStep f k <;> simp [h]

/-! ### Clocks -/

/-- A mode step leaves the clocks of the other behaviours. -/
theorem State.clock_runMode_of_ne {m : ModeId} {p : ClockId} (h : p ≠ clockOfMode m) (s : State) (x : Forwarded) :
    (s.runMode m x).clock p = s.clock p := by
  cases m with
  | clock =>
    cases p with
    | clk => exact absurd rfl h
    | bst | div | mul => rfl
  | burst =>
    cases p with
    | bst => exact absurd rfl h
    | clk | div | mul => rfl
  | divide =>
    cases p with
    | div => exact absurd rfl h
    | clk | bst | mul => rfl
  | multiply =>
    cases p with
    | mul => exact absurd rfl h
    | clk | bst | div => rfl

/-- A mode step writes no duty. -/
theorem State.duty_runMode (s : State) (m : ModeId) (x : Forwarded) (p : ClockId) :
    ((s.runMode m x).clock p).duty = (s.clock p).duty := by
  by_cases hp : p = clockOfMode m
  · subst hp
    cases m with
    | clock => exact s.clkMode.frameStep_duty _ x
    | burst => exact s.bstMode.frameStep_duty _ x
    | divide => exact s.divMode.frameStep_duty _ _ x
    | multiply => exact s.mulMode.frameStep_duty _ _ x
  · rw [State.clock_runMode_of_ne hp]

theorem State.frameStep_duty (s : State) (f : Frame) (p : ClockId) :
    ((s.frameStep f).clock p).duty = (s.clock p).duty := by
  rw [State.clock_frameStep, State.duty_runMode]
  cases p <;> rfl

@[simp] theorem State.frameStep_config (s : State) (f : Frame) : (s.frameStep f).config = s.config :=
  State.runMode_config _ _ _

@[simp] theorem State.frameStep_input (s : State) (f : Frame) : (s.frameStep f).input = s.input :=
  State.runMode_input _ _ _

/-- Settles O55: a frame touches a knob by QK.UPDATE only, and no step of a behaviour writes a duty. -/
theorem frameKeepsConfigurationAndDuty : Obligations.FrameKeepsConfigurationAndDuty := fun s f =>
  ⟨_, exec_frame f s, s.frameStep_config f, s.frameStep_input f,
    fun k => ⟨s.frameStep_numValues f k, s.frameStep_hysteresis f k⟩, s.frameStep_duty f⟩

end Sys2Proof.Machine
end

section
/-! ### The invariant of the state (rules R22, R26, R84, R85, R170)

The invariant is that of each knob and each clock, of the gate count, the output level and the handshake. Each way an operation can
write the state keeps it when the part it writes is well-formed, and each unit operation writes a well-formed part. -/

namespace Sys2Proof.Machine

/-! ### Ways of writing the state -/

theorem State.wf_withResult {s : State} (h : s.wf = true) (r : Result) : (s.withResult r).wf = true := h

theorem State.wf_setKnob {s : State} (h : s.wf = true) (k : KnobId) {q : QuantizedKnob} (hq : q.wf = true) :
    (s.setKnob k q).wf = true := by
  obtain ⟨hknob, hclock, hgates, hlevel, hready⟩ := s.wf_iff.1 h
  refine (State.wf_iff _).2 ⟨fun j => ?knobs, by simpa using hclock, by simpa using hgates, by simpa using hlevel,
    by simpa using hready⟩
  case knobs =>
    by_cases hj : j = k
    · rw [hj, State.knob_setKnob]; exact hq
    · rw [State.knob_setKnob_of_ne s hj]; exact hknob j

theorem State.wf_setClock {s : State} (h : s.wf = true) (p : ClockId) {c : PhaseClock} (hc : c.wf = true) :
    (s.setClock p c).wf = true := by
  obtain ⟨hknob, hclock, hgates, hlevel, hready⟩ := s.wf_iff.1 h
  refine (State.wf_iff _).2 ⟨by simpa using hknob, fun j => ?clocks, by simpa using hgates, by simpa using hlevel,
    by simpa using hready⟩
  case clocks =>
    by_cases hj : j = p
    · rw [hj, State.clock_setClock]; exact hc
    · rw [State.clock_setClock_of_ne s hj]; exact hclock j

theorem State.wf_setClkRate {s : State} (h : s.wf = true) {c : CurveKnob} (hc : c.k = s.clkMode.kRate.k) :
    (s.setClkRate c).wf = true := by
  obtain ⟨hknob, hclock, hgates, hlevel, hready⟩ := s.wf_iff.1 h
  exact (State.wf_iff _).2
    ⟨fun k => by rw [State.knob_setClkRate s hc]; exact hknob k, by simpa using hclock, hgates, hlevel, hready⟩

theorem State.wf_runMode {s : State} (h : s.wf = true) (m : ModeId) (x : Forwarded) : (s.runMode m x).wf = true := by
  obtain ⟨hknob, hclock, hgates, hlevel, hready⟩ := s.wf_iff.1 h
  have hburst := BurstMode.wf_frameStep (hclock .bst) hgates s.config.tables x
  refine (State.wf_iff _).2 ⟨fun k => ?knobs, fun p => ?clocks, ?gates, by simpa using hlevel, by simpa using hready⟩
  case knobs =>
    obtain hkept | ⟨raw, hupdated⟩ := s.knob_runMode m x k
    · rw [hkept]; exact hknob k
    · rw [hupdated]; exact QuantizedKnob.wf_update (hknob k) raw
  case clocks =>
    by_cases hp : p = clockOfMode m
    · subst hp
      cases m with
      | clock => exact ClockMode.wf_frameStep (hclock .clk) _ x
      | burst => exact hburst.1
      | divide => exact DivMulMode.wf_frameStep (hclock .div) _ _ x
      | multiply => exact DivMulMode.wf_frameStep (hclock .mul) _ _ x
    · rw [State.clock_runMode_of_ne hp]; exact hclock p
  case gates =>
    cases m with
    | burst => exact hburst.2
    | clock | divide | multiply => exact hgates

/-- Writing a widened clock state to the output register and setting the handshake keeps the invariant (rules R84, R85). -/
theorem State.wf_output {s : State} (h : s.wf = true) (b : Bool) (r : Result) :
    ({ s with outLevel := widen b, outValid := true, inReady := true, result := r } : State).wf = true := by
  obtain ⟨hknob, hclock, hgates, -, -⟩ := s.wf_iff.1 h
  refine (State.wf_iff _).2 ⟨fun k => ?knobs, fun p => ?clocks, hgates, ?level, rfl⟩
  case knobs =>
    refine Eq.trans (congrArg QuantizedKnob.wf ?_) (hknob k)
    cases k <;> rfl
  case clocks =>
    refine Eq.trans (congrArg PhaseClock.wf ?_) (hclock p)
    cases p <;> rfl
  case level =>
    cases b with
    | true => exact .inr rfl
    | false => exact .inl rfl

theorem State.wf_frameStep {s : State} (h : s.wf = true) (f : Frame) : (s.frameStep f).wf = true := by
  obtain ⟨hknob, -⟩ := s.wf_iff.1 h
  have hquantised : (s.modeQuantised f).wf = true :=
    State.wf_setKnob h .msMode (QuantizedKnob.wf_update (hknob .msMode) f.modeRaw)
  rw [State.frameStep_eq]
  exact State.wf_output (State.wf_runMode hquantised _ _) _ _

/-- RESET establishes the invariant, whatever the state was. -/
theorem State.wf_toReset (s : State) : s.toReset.wf = true := by
  refine (State.wf_iff _).2 ⟨fun k => ?knobs, fun p => ?clocks, Nat.zero_le _, .inl rfl, rfl⟩
  case knobs => rw [State.knob_toReset]; exact QuantizedKnob.wf_atReset _ _
  case clocks => rw [State.clock_toReset]; exact PhaseClock.wf_atReset _

/-! ### Every operation -/

theorem exec_wf {i : Instr} {s t : State} (h : s.wf = true) (hexec : exec i s = .next t) : t.wf = true := by
  obtain ⟨hknob, hclock, -⟩ := s.wf_iff.1 h
  cases i with
  | qkUpdate k raw => cases hexec; exact State.wf_setKnob h k (QuantizedKnob.wf_update (hknob k) raw)
  | ckUpdate c raw => cases hexec; exact State.wf_setKnob h c.knob (QuantizedKnob.wf_update (hknob c.knob) raw)
  | qkConfig k nv hyst =>
    cases hnv : bucketsLegal nv with
    | true =>
      rw [exec_qkConfig hnv] at hexec
      cases hexec
      exact State.wf_setKnob h k (QuantizedKnob.wf_config ⟨nv, hnv⟩ _ _)
    | false =>
      rw [exec_qkConfig_illegal hnv] at hexec
      cases hexec
  | ckSetCurve c sel =>
    cases c with
    | clkRate => cases hexec; exact State.wf_setClkRate h (CurveKnob.setCurve_k _ sel)
    | bstRate => cases hexec
  | ckGetValue c => cases c <;> (cases hexec; exact h)
  | qkGetIndex | qkGetRaw | qkMapIndex | qkMapInnerRaw | pcGetState | pcIsRising | pcIsFalling => cases hexec; exact h
  | pcStart p t => cases hexec; exact State.wf_setClock h p (PhaseClock.wf_start (hclock p) t)
  | pcStop p => cases hexec; exact State.wf_setClock h p (PhaseClock.wf_stop (hclock p))
  | pcSync p target => cases hexec; exact State.wf_setClock h p (PhaseClock.wf_sync (hclock p) target)
  | pcUpdate p t => cases hexec; exact State.wf_setClock h p (PhaseClock.wf_update (hclock p) t)
  | pcSetPeriod p v => cases hexec; exact State.wf_setClock h p (PhaseClock.wf_setPeriod (hclock p) v)
  | pcSetDuty p d => cases hexec; exact State.wf_setClock h p (PhaseClock.wf_setDuty (hclock p) d)
  | reset => cases hexec; exact s.wf_toReset
  | frame f => cases hexec; exact State.wf_frameStep h f
  | modeClock x => cases hexec; exact State.wf_runMode h .clock x
  | modeBurst x => cases hexec; exact State.wf_runMode h .burst x
  | modeDivide x => cases hexec; exact State.wf_runMode h .divide x
  | modeMultiply x => cases hexec; exact State.wf_runMode h .multiply x

theorem runWord_wf {w : CmdWord} {s t : State} (h : s.wf = true) (hrun : runWord w s = .next t) : t.wf = true := by
  unfold runWord at hrun
  split at hrun
  · exact exec_wf h hrun
  · cases hrun

theorem runEdge_wf {p : PortSample} {s t : State} (h : s.wf = true) (hrun : runEdge p s = .next t) : t.wf = true := by
  unfold runEdge at hrun
  split at hrun
  · exact exec_wf h hrun
  · split at hrun
    · exact exec_wf h hrun
    · cases hrun; exact h

/-- Settles O56: taking an input and ending the pulse write no part the invariant speaks of; the rest is the operation's. -/
theorem stepKeepsStateInvariant : Obligations.StepKeepsStateInvariant := by
  intro s t h hstep
  match hin : s.input with
  | [] =>
    rw [step_nil hin] at hstep
    cases hstep
    exact h
  | .word w :: rest =>
    rw [step_word hin] at hstep
    exact runWord_wf (s := { s with input := rest }) h hstep
  | .edge p :: rest =>
    rw [step_edge hin] at hstep
    exact runEdge_wf (s := { s with input := rest }) h hstep

/-! ### After reset, in every configuration -/

theorem State.wf_ofConfig (c : Config) : (State.ofConfig c).wf = true := by
  refine (State.wf_iff _).2 ⟨fun k => ?knobs, fun p => ?clocks, Nat.zero_le _, .inl rfl, rfl⟩
  case knobs => cases k <;> exact QuantizedKnob.wf_atReset _ _
  case clocks => cases p <;> exact PhaseClock.wf_atReset _

theorem State.sized_ofConfig (c : Config) : (State.ofConfig c).sized = true := by
  simp [State.sized, State.ofConfig, QuantizedKnob.atReset, CurveKnob.atReset]

/-- Settles O57: every knob and clock after reset has its invariant, and the sizes are the configuration's. -/
theorem resetHoldsInvariantInEveryConfiguration : Obligations.ResetHoldsInvariantInEveryConfiguration :=
  ⟨fun c => ⟨State.wf_ofConfig c, State.sized_ofConfig c⟩, rfl⟩

/-! ### The sizes (rules R7, R66) -/

/-- The sizes depend on the bucket counts, the number of curves and the configuration alone. -/
theorem State.sized_congr {s t : State} (hnum : ∀ k, (t.knob k).numValues = (s.knob k).numValues)
    (hcurves : t.clkMode.kRate.nCurves = s.clkMode.kRate.nCurves) (hconfig : t.config = s.config) :
    t.sized = s.sized := by
  simp only [State.sized, ← knob_msMode, ← knob_clkRate, ← knob_clkRange, ← knob_bstRate, ← knob_bstRepeat, ← knob_divRate,
    ← knob_divRange, ← knob_mulRate, ← knob_mulRange, hnum, hcurves, hconfig]

@[simp] theorem State.runMode_nCurves (s : State) (m : ModeId) (x : Forwarded) :
    (s.runMode m x).clkMode.kRate.nCurves = s.clkMode.kRate.nCurves := by
  cases m <;> rfl

theorem State.frameStep_nCurves (s : State) (f : Frame) :
    (s.frameStep f).clkMode.kRate.nCurves = s.clkMode.kRate.nCurves :=
  State.runMode_nCurves _ _ _

/-- Settles O58: RESET and FRAME write no bucket count, no number of curves and no configuration. -/
theorem composedCoreKeepsTableSizes : Obligations.ComposedCoreKeepsTableSizes := by
  intro s hs
  refine ⟨⟨_, exec_reset s, ?reset⟩, fun f => ⟨_, exec_frame f s, ?frame⟩⟩
  case reset =>
    have hnum : ∀ k, (s.toReset.knob k).numValues = (s.knob k).numValues := fun k => by simp
    exact (State.sized_congr hnum rfl rfl).trans hs
  case frame =>
    exact (State.sized_congr (s.frameStep_numValues f) (s.frameStep_nCurves f) (s.frameStep_config f)).trans hs

end Sys2Proof.Machine
end

section
/-! ### Table reads in bounds (rule R66)

A configuration is legal by its type, so its tables have the sizes of the knobs that index them; a knob with the invariant has its
index below its bucket count. -/

namespace Sys2Proof

/-- The sizes of the tables of a configuration (rule R8). -/
theorem Config.table_sizes (c : Config) :
    c.tables.clkCurve.length = c.clkNCurves.toNat ∧ (∀ row ∈ c.tables.clkCurve, row.length = c.clkRateNv.toNat + 1) ∧
    c.tables.bstCurve.length = bstRateBuckets.toNat + 1 ∧ c.tables.bstRepeat.length = c.bstNRep.toNat ∧
    c.tables.divRatio.length = c.dmNTables.toNat ∧ (∀ row ∈ c.tables.divRatio, row.length = dmRateBuckets.toNat) ∧
    c.tables.mulRatio.length = c.dmNTables.toNat ∧ (∀ row ∈ c.tables.mulRatio, row.length = dmRateBuckets.toNat) := by
  have h := c.sized
  simp only [Tables.sizedFor, Bool.and_eq_true, beq_iff_eq, List.all_eq_true] at h
  obtain ⟨⟨⟨⟨⟨⟨⟨hcurves, hcurve⟩, hbst⟩, hrepeat⟩, hdiv⟩, hdivRow⟩, hmul⟩, hmulRow⟩ := h
  exact ⟨hcurves, hcurve, hbst, hrepeat, hdiv, hdivRow, hmul, hmulRow⟩

end Sys2Proof

namespace Sys2Proof.Machine

/-- The sizes of the knobs of a state (rule R7). -/
theorem State.sized_iff (s : State) : s.sized = true ↔
    s.kMode.numValues = modeBuckets ∧ s.clkMode.kRate.k.numValues = s.config.clkRateNv ∧
    s.clkMode.kRate.nCurves = s.config.clkNCurves ∧ s.clkMode.kRange.numValues = s.config.clkNCurves ∧
    s.bstMode.kRate.numValues = bstRateBuckets ∧ s.bstMode.kRepeat.numValues = s.config.bstNRep ∧
    s.divMode.kRate.numValues = dmRateBuckets ∧ s.divMode.kRange.numValues = s.config.dmNTables ∧
    s.mulMode.kRate.numValues = dmRateBuckets ∧ s.mulMode.kRange.numValues = s.config.dmNTables := by
  simp [State.sized, and_assoc]

/-- A row of a table whose rows all have the length `n`, and an index inside it. -/
theorem exists_row {α : Type} {table : List (List α)} {n i j : Nat} (hrows : ∀ row ∈ table, row.length = n)
    (hi : i < table.length) (hj : j < n) : ∃ row, table[i]? = some row ∧ j < row.length :=
  ⟨table[i], List.getElem?_eq_getElem hi, by rw [hrows _ (List.getElem_mem hi)]; exact hj⟩

/-- Settles O59: each index is below a bucket count that is the size of the table it is used in. -/
theorem tableReadsAreInBounds : Obligations.TableReadsAreInBounds := by
  intro s hwf hsized
  have hindex : ∀ k, (s.knob k).currentIndex.toNat < (s.knob k).numValues.toNat := fun k =>
    QuantizedKnob.wf_index ((s.wf_iff.1 hwf).1 k)
  obtain ⟨hcurves, hcurve, hbst, hrepeat, hdiv, hdivRow, hmul, hmulRow⟩ := s.config.table_sizes
  obtain ⟨nMode, nClkRate, nCurves, nClkRange, nBstRate, nRepeat, nDivRate, nDivRange, nMulRate, nMulRange⟩ :=
    s.sized_iff.1 hsized
  have hclkRate : s.clkMode.kRate.k.currentIndex.toNat + 1 < s.config.clkRateNv.toNat + 1 :=
    Nat.succ_lt_succ (nClkRate ▸ hindex .clkRate)
  refine ⟨exists_row hcurve ?sel hclkRate, exists_row hcurve ?range hclkRate, ?bstCurve, ?bstRepeat,
    exists_row hdivRow ?div (nDivRate ▸ hindex .divRate), exists_row hmulRow ?mul (nMulRate ▸ hindex .mulRate),
    ?mode⟩
  case sel => rw [hcurves, ← nCurves]; exact s.clkMode.kRate.inRange
  case range => rw [hcurves, ← nClkRange]; exact hindex .clkRange
  case bstCurve => rw [hbst, ← nBstRate]; exact Nat.succ_lt_succ (hindex .bstRate)
  case bstRepeat => rw [hrepeat, ← nRepeat]; exact hindex .bstRepeat
  case div => rw [hdiv, ← nDivRange]; exact hindex .divRange
  case mul => rw [hmul, ← nMulRange]; exact hindex .mulRange
  case mode =>
    have h := hindex .msMode
    rw [State.knob_msMode, nMode] at h
    exact h

end Sys2Proof.Machine
end

section
/-! ### The knob's windows over readings (rules R104, R108, R111, R125, R126)

A reading outside the window of a well-formed knob is beyond the margin on one side, and its bucket lies on that side. So the index
moves only towards the reading; and after the move the window starts at or below the reading, so a rising sweep never meets its lower
end. In one window the projection follows the reading. -/

namespace Sys2Proof.Machine

/-! ### How wide a window is -/

/-- Every window of a legal index is at least 63 wide (rule R104). -/
theorem windowLower_add_63_le {n : BucketCount} {i : Index} (hi : i.toNat < n.toNat) (h : Margin) :
    (windowLower n h i).toNat + 63 ≤ (windowUpper n h i).toNat := by
  have hstep := bucketStep_ge n
  have hstart := index_mul_step_le hi
  rw [windowLower_toNat hi, windowUpper_toNat]
  omega

/-- With one bucket the window reaches to the largest reading. -/
theorem windowUpper_of_one {n : BucketCount} (hn : n.toNat = 1) (h : Margin) : windowUpper n h 0#4 = 1023#10 := by
  apply BitVec.eq_of_toNat_eq
  rw [windowUpper_zero_toNat, hn]
  exact Nat.min_eq_right (by omega)

/-- Settles O19: a step is at least 64 and a bucket starts at 960 or lower, so the upper end is 63 past the lower one whether or
not it is clamped. -/
theorem windowsAreAtLeast63Wide : Obligations.WindowsAreAtLeast63Wide := by
  refine ⟨fun n h i hi => windowLower_add_63_le hi h, fun n hn => ?reached,
    fun n h hn => ⟨windowLower_zero n h, windowUpper_of_one hn h⟩⟩
  case reached =>
    obtain rfl : n = { bits := 16#5 } := BucketCount.ext_toNat hn
    decide

/-! ### Where an update moves the index -/

theorem bucketOf_mul_step_le (n : BucketCount) (raw : Raw) : (bucketOf n raw).toNat * bucketStep n ≤ raw.toNat := by
  rw [bucketOf_toNat]
  exact le_trans (Nat.mul_le_mul_right _ (Nat.min_le_left _ _)) (Nat.div_mul_le_self _ _)

/-- A reading at or above the start of a legal bucket has that bucket or a later one. -/
theorem le_bucketOf {n : BucketCount} {raw : Raw} {i : Nat} (hi : i < n.toNat) (h : i * bucketStep n ≤ raw.toNat) :
    i ≤ (bucketOf n raw).toNat := by
  have hpos : 0 < bucketStep n := Nat.lt_of_lt_of_le (by decide) (bucketStep_ge n)
  rw [bucketOf_toNat]
  exact le_min ((Nat.le_div_iff_mul_le hpos).2 h) (by omega)

/-- A reading below the start of a bucket has an earlier one. -/
theorem bucketOf_lt_of_lt {n : BucketCount} {raw : Raw} {i : Nat} (h : raw.toNat < i * bucketStep n) :
    (bucketOf n raw).toNat < i :=
  Nat.lt_of_mul_lt_mul_right (lt_of_le_of_lt (bucketOf_mul_step_le n raw) h)

/-- What QK.UPDATE does to the index of a well-formed knob (rules R103, R111): a reading inside the window keeps it; one below the
window is more than the margin below the bucket and lowers it; one above is at least the margin past the bucket and does not
lower it. -/
theorem QuantizedKnob.update_index_cases {q : QuantizedKnob} (hq : q.wf = true) (raw : Raw) :
    (q.inWindow raw = true ∧ q.update raw = { q with lastRaw := raw }) ∨
    (raw.toNat + q.hysteresis.toNat + 1 ≤ q.currentIndex.toNat * bucketStep q.numValues ∧
      (q.update raw).currentIndex.toNat < q.currentIndex.toNat) ∨
    (q.currentIndex.toNat * bucketStep q.numValues + bucketStep q.numValues + q.hysteresis.toNat + 1 ≤ raw.toNat ∧
      q.currentIndex.toNat ≤ (q.update raw).currentIndex.toNat) := by
  have hlower := wf_lower hq
  have hupper := wf_upper hq
  have hraw : raw.toNat < 1024 := raw.isLt
  cases hin : q.inWindow raw with
  | true => exact .inl ⟨rfl, update_inside hin⟩
  | false =>
    have hnew : (q.update raw).currentIndex = bucketOf q.numValues raw := by rw [update_outside hin]; rfl
    rw [inWindow_eq_false_iff, BitVec.lt_def, BitVec.lt_def] at hin
    rw [hnew]
    rcases hin with hbelow | habove
    · exact .inr (.inl ⟨by omega, bucketOf_lt_of_lt (by omega)⟩)
    · exact .inr (.inr ⟨by omega, le_bucketOf (wf_index hq) (by omega)⟩)

/-- Settles O21: each of the three cases of an update excludes what the other two claim. -/
theorem hysteresisKeepsIndexStable : Obligations.HysteresisKeepsIndexStable := by
  intro s k raw hq
  refine ⟨_, exec_qkUpdate k raw s, ?_⟩
  rw [State.knob_withResult, State.knob_setKnob]
  generalize s.knob k = q at hq ⊢
  have hstep := bucketStep_ge q.numValues
  rw [← bucketStep_eq, BitVec.lt_def, BitVec.lt_def]
  rcases QuantizedKnob.update_index_cases hq raw with ⟨-, hinside⟩ | ⟨hbelow, hfall⟩ | ⟨habove, hrise⟩
  · rw [hinside]
    exact ⟨fun _ => rfl, fun h => absurd h (lt_irrefl _), fun h => absurd h (lt_irrefl _)⟩
  · exact ⟨by omega, by omega, by omega⟩
  · exact ⟨by omega, by omega, by omega⟩

/-! ### Rising sweeps (rule R111 (a)) -/

/-- A reading that is not below the window does not lower the index, and the new window does not start above it. -/
theorem QuantizedKnob.update_of_lower_le {q : QuantizedKnob} (hq : q.wf = true) {raw : Raw}
    (h : q.lowerBound.toNat ≤ raw.toNat) :
    q.currentIndex.toNat ≤ (q.update raw).currentIndex.toNat ∧ (q.update raw).lowerBound.toNat ≤ raw.toNat := by
  cases hin : q.inWindow raw with
  | true => rw [update_inside hin]; exact ⟨le_refl _, h⟩
  | false =>
    have hstart := bucketOf_mul_step_le q.numValues raw
    have hlower := wf_lower hq
    constructor
    · rcases update_index_cases hq raw with ⟨htrue, -⟩ | ⟨hbelow, -⟩ | ⟨-, hrise⟩
      · rw [hin] at htrue; cases htrue
      · omega
      · exact hrise
    · rw [update_outside hin]
      show (windowLower q.numValues q.hysteresis (bucketOf q.numValues raw)).toNat ≤ raw.toNat
      rw [windowLower_toNat (bucketOf_lt _ raw)]
      omega

theorem indexTrace_cons (k : KnobId) (raw : Raw) (raws : List Raw) (s : State) :
    indexTrace k (raw :: raws) s = ((s.knob k).update raw).currentIndex.toNat ::
      indexTrace k raws ((s.setKnob k ((s.knob k).update raw)).withResult .none) := by
  simp [indexTrace]

theorem indexTrace_length (k : KnobId) (raws : List Raw) (s : State) :
    (indexTrace k raws s).length = raws.length := by
  induction raws generalizing s with
  | nil => rfl
  | cons raw raws ih => rw [indexTrace_cons, List.length_cons, List.length_cons, ih]

/-- A rising sweep that starts at or above the lower end of the window: no index of it is below the one before, nor below the
knob's. -/
theorem indexTrace_rising (k : KnobId) (raws : List Raw) (s : State) (hq : (s.knob k).wf = true)
    (hraws : raws.Pairwise (· ≤ ·)) (hlower : ∀ raw ∈ raws, (s.knob k).lowerBound.toNat ≤ raw.toNat) :
    (∀ i ∈ indexTrace k raws s, (s.knob k).currentIndex.toNat ≤ i) ∧ (indexTrace k raws s).Pairwise (· ≤ ·) := by
  induction raws generalizing s with
  | nil => exact ⟨fun _ h => absurd h List.not_mem_nil, .nil⟩
  | cons raw raws ih =>
    obtain ⟨hfirst, hrest⟩ := List.pairwise_cons.1 hraws
    obtain ⟨hindex, hbound⟩ := QuantizedKnob.update_of_lower_le hq (hlower raw List.mem_cons_self)
    have hknob : ((s.setKnob k ((s.knob k).update raw)).withResult .none).knob k = (s.knob k).update raw := by simp
    have ih := ih ((s.setKnob k ((s.knob k).update raw)).withResult .none)
    rw [hknob] at ih
    obtain ⟨hlater, hsorted⟩ := ih (QuantizedKnob.wf_update hq raw) hrest
      fun later hmem => le_trans hbound (hfirst later hmem)
    rw [indexTrace_cons]
    refine ⟨fun i hi => ?notBelowKnob, List.pairwise_cons.2 ⟨hlater, hsorted⟩⟩
    case notBelowKnob =>
      rcases List.mem_cons.1 hi with rfl | hi
      · exact hindex
      · exact le_trans hindex (hlater i hi)

/-- Settles O20: after reset the window starts at 0, so below every reading. -/
theorem risingSweepNeverLowersIndex : Obligations.RisingSweepNeverLowersIndex := by
  intro s k raws hreset hraws
  have hq : (s.knob k).wf = true := by rw [hreset]; exact QuantizedKnob.wf_atReset _ _
  have hlower : (s.knob k).lowerBound = 0#10 := by rw [hreset]; exact windowLower_zero _ _
  have hbelow : ∀ raw ∈ raws, (s.knob k).lowerBound.toNat ≤ raw.toNat := fun raw _ => by
    rw [hlower]; exact Nat.zero_le _
  exact ⟨(indexTrace_rising k raws s hq hraws hbelow).2, indexTrace_length k raws s⟩

/-! ### Projections follow the position (rules R108, R126) -/

theorem project_mono {pos pos' span : Nat} (h : pos ≤ pos') (hspan : pos' ≤ span) {a b : Time} (hab : a ≤ b) :
    project pos span a b ≤ project pos' span a b := by
  rw [BitVec.le_def] at hab ⊢
  rw [project_rising (h.trans hspan) hab, project_rising hspan hab]
  exact Nat.add_le_add_left (Nat.div_le_div_right (Nat.mul_le_mul_right _ h)) _

theorem project_anti {pos pos' span : Nat} (h : pos ≤ pos') (hspan : pos' ≤ span) {a b : Time} (hab : b ≤ a) :
    project pos' span a b ≤ project pos span a b := by
  rw [BitVec.le_def] at hab ⊢
  rw [project_falling (h.trans hspan) hab, project_falling hspan hab]
  exact Nat.sub_le_sub_left (Nat.div_le_div_right (Nat.mul_le_mul_right _ h)) _

/-- A later reading has a later position in the window, its ends included. -/
theorem position_mono {x y lo hi : Nat} (h : x ≤ y) (hwindow : lo ≤ hi) :
    clamp x lo hi - lo ≤ clamp y lo hi - lo ∧ clamp y lo hi - lo ≤ hi - lo := by
  simp only [clamp]; omega

/-- In one window the projected value follows the reading, in the direction of `b - a`. -/
theorem QuantizedKnob.mapInnerRaw_mono {q : QuantizedKnob} (hq : q.wf = true) {raw : Raw} (h : q.lastRaw ≤ raw)
    (a b : Time) :
    (a ≤ b → q.mapInnerRaw a b ≤ ({ q with lastRaw := raw } : QuantizedKnob).mapInnerRaw a b) ∧
    (b ≤ a → ({ q with lastRaw := raw } : QuantizedKnob).mapInnerRaw a b ≤ q.mapInnerRaw a b) := by
  obtain ⟨hpos, hspan⟩ := position_mono (BitVec.le_def.1 h) (wf_lower_lt_upper hq).le
  exact ⟨fun hab => project_mono hpos hspan hab, fun hab => project_anti hpos hspan hab⟩

/-- The value that a completed QK.MAPINNERRAW returned. -/
theorem value_of_exec_qkMapInnerRaw {s : State} {k : KnobId} {a b v : Time}
    (h : exec (.qkMapInnerRaw k a b) s = .next { s with result := .value v }) : v = (s.knob k).mapInnerRaw a b := by
  rw [exec_qkMapInnerRaw] at h
  have hresult := congrArg State.result (Host.Outcome.next.inj h)
  exact (Result.value.inj hresult).symm

/-- Settles O17: the knob of the second state is that of the first with a later reading. -/
theorem interpolationIsMonotonicInWindow : Obligations.InterpolationIsMonotonicInWindow := by
  intro s t k a b v w hq hknob hraw hv hw
  rw [value_of_exec_qkMapInnerRaw hv, value_of_exec_qkMapInnerRaw hw, hknob]
  exact QuantizedKnob.mapInnerRaw_mono hq hraw a b

/-! ### A curve of two breakpoints (rule R125) -/

/-- The value of `BST.kRate`, with one bucket and the curve `[a, b]`, after the reading `raw`. -/
def twoBreakpointValue (a b : Time) (raw : Raw) : Time := project raw.toNat 1023 a b

/-- A knob with one bucket has index 0 and the whole range as its window, whatever its readings. -/
theorem QuantizedKnob.window_of_one {q : QuantizedKnob} (hq : q.wf = true) (hone : q.numValues.toNat = 1) :
    q.currentIndex = 0#4 ∧ q.lowerBound = 0#10 ∧ q.upperBound = 1023#10 := by
  obtain ⟨hindex, hlower, hupper⟩ := q.wf_iff.1 hq
  have hzero : q.currentIndex = 0#4 := BitVec.eq_of_toNat_eq (by rw [hone] at hindex; exact Nat.lt_one_iff.1 hindex)
  rw [hlower, hupper, hzero]
  exact ⟨rfl, windowLower_zero _ _, windowUpper_of_one hone _⟩

theorem bstRateValue_update_of_one {q : QuantizedKnob} (hq : q.wf = true) (hone : q.numValues.toNat = 1) {tb : Tables}
    {a b : Time} (hcurve : tb.bstCurve = [a, b]) (raw : Raw) :
    bstRateValue tb (q.update raw) = twoBreakpointValue a b raw := by
  obtain ⟨hindex, hlower, hupper⟩ := QuantizedKnob.window_of_one (QuantizedKnob.wf_update hq raw)
    ((congrArg BucketCount.toNat (q.update_numValues raw)).trans hone)
  have hentries : bstRateValue tb (q.update raw) = (q.update raw).mapInnerRaw a b :=
    bstRateValue_of_entries (by rw [hcurve, hindex]; rfl) (by rw [hcurve, hindex]; rfl)
  have hraw : raw.toNat < 1024 := raw.isLt
  have hclamp : clamp raw.toNat 0 1023 = raw.toNat := by simp only [clamp]; omega
  rw [hentries, QuantizedKnob.mapInnerRaw, hlower, hupper, QuantizedKnob.update_lastRaw]
  show project (clamp raw.toNat 0 1023 - 0) 1023 a b = _
  rw [hclamp]
  rfl

/-- Settles O26: the value is the projection of the reading itself over the whole range. -/
theorem twoBreakpointCurveRunsFromAToB : Obligations.TwoBreakpointCurveRunsFromAToB := by
  intro s a b hq hone hcurve
  have hlast : ∀ raw : Raw, raw.toNat ≤ 1023 := fun raw => Nat.le_of_lt_succ raw.isLt
  refine ⟨twoBreakpointValue a b, fun raw => ?value, project_zero _ a b, project_span (by decide) a b,
    fun hab x y hxy => project_mono hxy (hlast y) hab, fun hab x y hxy => project_anti hxy (hlast y) hab,
    fun ha hb => ?worked⟩
  case value =>
    refine ⟨_, execAll_pair (exec_ckUpdate .bstRate raw s) (exec_ckGetValue_bstRate _), ?_⟩
    exact congrArg Result.value (bstRateValue_update_of_one hq hone hcurve raw)
  case worked =>
    subst ha hb
    decide

end Sys2Proof.Machine
end

section
/-! ### The phase and its anchor (rules R26 (b), R142 (a), R146, R238)

An executed PC.UPDATE computes the phase from the time since the anchor, and PC.SYNC places the anchor by the inverse mapping. At
the time of the sync the two meet: the phase computed is the target, inverted and rescaled, so it is the target rounded down. -/

namespace Sys2Proof.Machine

theorem toPhase_zero (p : Nat) : toPhase 0 p = 0 := by simp [toPhase]

/-- Inverting and rescaling rounds down by less than `phaseMax / p + 1`, both sides multiplied by the period (rule R238). -/
theorem sub_toPhase_toTime_mul_lt (ph : Nat) {p : Nat} (hp : 0 < p) :
    (ph - toPhase (toTime ph p) p) * p < phaseMax + p := by
  have hinvert : ph * p < (toTime ph p + 1) * phaseMax := Nat.lt_mul_of_div_lt (Nat.lt_succ_self _) (by decide)
  have hrescale : toTime ph p * phaseMax < (toPhase (toTime ph p) p + 1) * p :=
    Nat.lt_mul_of_div_lt (Nat.lt_succ_self _) hp
  rw [Nat.sub_mul]
  rw [Nat.add_mul] at hinvert hrescale
  omega

theorem period_pos {period : Time} (h : period ≠ 0#32) : 0 < period.toNat :=
  Nat.pos_of_ne_zero fun h0 => h (BitVec.eq_of_toNat_eq h0)

/-! ### What an executed update computes -/

/-- Moving the anchor does not change the edge. -/
theorem PhaseClock.isRising_reanchor (c : PhaseClock) (t : Time) : (c.reanchor t).isRising = c.isRising := by
  unfold reanchor
  split
  · rfl
  · rfl

/-- The phase after an executed update (rules R136, R143). -/
theorem PhaseClock.update_phase {c : PhaseClock} (hrunning : c.running = true) (hperiod : c.period ≠ 0#32) (t : Time) :
    (c.update t).phase.toNat = toPhase ((t - c.lastRisingEdgeTime).toNat % c.period.toNat) c.period.toNat := by
  obtain ⟨-, -, hphase, -⟩ := (c.observe t).reanchor_fields t
  rw [update_advances ((advances_iff c).2 ⟨hrunning, hperiod⟩), hphase, observe_phase hperiod]

theorem PhaseClock.update_lastObservedTime {c : PhaseClock} (hrunning : c.running = true) (hperiod : c.period ≠ 0#32)
    (t : Time) : (c.update t).lastObservedTime = t := by
  obtain ⟨-, -, -, -, -, hseen⟩ := (c.observe t).reanchor_fields t
  obtain ⟨-, -, -, -, hobserved, -⟩ := c.observe_fields t
  rw [update_advances ((advances_iff c).2 ⟨hrunning, hperiod⟩), hseen, hobserved]

/-- The anchor after an executed update moves exactly when PC.ISRISING then reads true (rule R143). -/
theorem PhaseClock.update_anchor {c : PhaseClock} (hrunning : c.running = true) (hperiod : c.period ≠ 0#32) (t : Time) :
    (c.update t).lastRisingEdgeTime = if (c.update t).isRising then t else c.lastRisingEdgeTime := by
  obtain ⟨-, -, -, -, -, hanchor⟩ := c.observe_fields t
  rw [update_advances ((advances_iff c).2 ⟨hrunning, hperiod⟩), isRising_reanchor, reanchor_anchor, hanchor]

/-- The phase is the rescaled time since the anchor, unless the update itself moved the anchor (rule R26 (b)). -/
theorem PhaseClock.update_phase_eq_since_anchor {c : PhaseClock} (hrunning : c.running = true) (hperiod : c.period ≠ 0#32)
    {t : Time} (hrise : (c.update t).isRising = false) :
    (c.update t).phase.toNat =
      toPhase (((c.update t).lastObservedTime - (c.update t).lastRisingEdgeTime).toNat % (c.update t).period.toNat)
        (c.update t).period.toNat := by
  rw [update_lastObservedTime hrunning hperiod, update_anchor hrunning hperiod, hrise, (c.update_fields t).1,
    update_phase hrunning hperiod]
  rfl

/-! ### A sync and an update at the same time -/

/-- At the time of the sync the elapsed time is the target's. -/
theorem PhaseClock.lastObservedTime_sub_sync_anchor {c : PhaseClock} (h : c.running = true) (target : Duty) :
    (c.lastObservedTime - (c.sync target).lastRisingEdgeTime).toNat =
      toTime (min target.toNat 65535) c.period.toNat := by
  have hph : min target.toNat 65535 < phaseMax := lt_of_le_of_lt (Nat.min_le_right _ _) (by decide)
  rw [sync_running h]
  exact (congrArg BitVec.toNat (subT_subT _ _)).trans (toTime_ofNat_toNat hph c.period)

/-- An update at the time of the sync computes the target, inverted and rescaled. -/
theorem PhaseClock.phase_update_sync {c : PhaseClock} (hrunning : c.running = true) (hperiod : c.period ≠ 0#32)
    (target : Duty) :
    ((c.sync target).update c.lastObservedTime).phase.toNat =
      toPhase (toTime (min target.toNat 65535) c.period.toNat) c.period.toNat := by
  have hph : min target.toNat 65535 < phaseMax := lt_of_le_of_lt (Nat.min_le_right _ _) (by decide)
  obtain ⟨hp, -, hr, -, -⟩ := c.sync_fields target
  rw [update_phase (hr.trans hrunning) (hp ▸ hperiod), lastObservedTime_sub_sync_anchor hrunning, hp,
    Nat.mod_eq_of_lt (toTime_lt hph (period_pos hperiod))]

/-- After a sync to 0 an update at the same time leaves phase 0, whether or not it executes. -/
theorem PhaseClock.phase_update_sync_zero {c : PhaseClock} (hrunning : c.running = true) :
    ((c.sync 0#17).update c.lastObservedTime).phase = 0#16 := by
  obtain ⟨hp, -⟩ := c.sync_fields 0#17
  apply BitVec.eq_of_toNat_eq
  by_cases hperiod : c.period = 0#32
  · rw [update_noop (advances_false (.inr (hp.trans hperiod))), sync_phase hrunning]
    rfl
  · rw [phase_update_sync hrunning hperiod]
    exact Nat.le_zero.1 (toPhase_toTime_le 0 _)

/-- Neither operation stops the clock or writes the duty, so phase 0 reads high unless the duty is 0. -/
theorem PhaseClock.getState_update_sync_zero {c : PhaseClock} (hrunning : c.running = true) (hduty : 0 < c.duty.toNat) :
    ((c.sync 0#17).update c.lastObservedTime).getState = true := by
  obtain ⟨-, hd, hr⟩ := (c.sync 0#17).update_fields c.lastObservedTime
  obtain ⟨-, hd', hr', -⟩ := c.sync_fields 0#17
  rw [getState_iff, phase_update_sync_zero hrunning, hd, hd', hr, hr']
  exact ⟨hrunning, hduty⟩

/-! ### The statements -/

/-- Settles O35: inverting and rescaling rounds down, by less than the bound. -/
theorem syncThenUpdateRoundsDownByLessThanBound : Obligations.SyncThenUpdateRoundsDownByLessThanBound := by
  intro s p tp hrunning hperiod htp
  refine ⟨_, execAll_pair (exec_pcSync p tp s) (exec_pcUpdate p (s.clock p).lastObservedTime _), ?_⟩
  rw [State.clock_setClock_withResult, State.clock_setClock_withResult, PhaseClock.phase_update_sync hrunning hperiod,
    Nat.min_eq_left htp]
  exact ⟨toPhase_toTime_le _ _, sub_toPhase_toTime_mul_lt _ (period_pos hperiod)⟩

/-- Settles O36: a start anchors phase 0 at the time observed; an update that saw no rising edge computed the phase from the anchor
that it left. -/
theorem runningPhaseMatchesAnchor : Obligations.RunningPhaseMatchesAnchor := by
  intro s p t hperiod
  refine ⟨⟨_, exec_pcStart p t s, ?start⟩, fun hrunning => ⟨_, _, exec_pcUpdate p t s, exec_pcIsRising p _, ?update⟩⟩
  case start =>
    rw [State.clock_setClock_withResult]
    have helapsed : (((s.clock p).start t).lastObservedTime - ((s.clock p).start t).lastRisingEdgeTime).toNat = 0 :=
      congrArg BitVec.toNat (BitVec.sub_self t)
    rw [helapsed, Nat.zero_mod, toPhase_zero]
    rfl
  case update =>
    rw [State.clock_setClock_withResult]
    refine ⟨fun hrise => PhaseClock.update_phase_eq_since_anchor hrunning hperiod hrise, fun hrise => ?_⟩
    rw [PhaseClock.update_anchor hrunning hperiod, hrise]
    rfl

/-- Settles O37: the phase is 0, below any duty but 0. -/
theorem syncZeroThenUpdateReadsHigh : Obligations.SyncZeroThenUpdateReadsHigh := by
  intro s p hrunning hduty
  refine ⟨_, (execAll_cons (exec_pcSync p 0#17 s)).trans
    (execAll_pair (exec_pcUpdate p (s.clock p).lastObservedTime _) (exec_pcGetState p _)), ?_⟩
  simp only [State.withResult_result, State.clock_withResult, State.clock_setClock]
  exact ⟨congrArg Result.bit (PhaseClock.getState_update_sync_zero hrunning hduty),
    PhaseClock.phase_update_sync_zero hrunning⟩

end Sys2Proof.Machine
end

section
/-! ### Single mode steps at an edge (rules R162 (f), R175 (e))

A ClockMode step with a trigger rise ends with a sync to 0, a follower step with an input fall with a sync to the duty; the level
returned is that of the clock which the sync left. -/

namespace Sys2Proof.Machine

/-! ### ClockMode at a trigger rise -/

/-- A sync to 0 anchors the clock at the last observation. -/
theorem PhaseClock.sync_zero_anchor {c : PhaseClock} (h : c.running = true) :
    (c.sync 0#17).lastRisingEdgeTime = c.lastObservedTime := by
  simp [sync_running h, toTime, subT]

theorem PhaseClock.sync_zero_phase {c : PhaseClock} (h : c.running = true) : (c.sync 0#17).phase = 0#16 :=
  BitVec.eq_of_toNat_eq (sync_phase h 0#17)

/-- After a sync to 0 a Running clock reads high unless its duty is 0. -/
theorem PhaseClock.getState_sync_zero {c : PhaseClock} (h : c.running = true) (hduty : 0 < c.duty.toNat) :
    (c.sync 0#17).getState = true := by
  obtain ⟨-, hd, hr, -⟩ := c.sync_fields 0#17
  rw [getState_iff, sync_zero_phase h, hd, hr]
  exact ⟨h, hduty⟩

/-- The clock after a ClockMode step with a trigger rise is the updated clock synchronised to 0; the update observed the frame's
time if the clock has a period. -/
theorem ClockMode.frameStep_rise {tb : Tables} {x : Forwarded} {c : ClockMode} (hrise : trigRise x.trig c.prevTrig = true)
    (hrunning : c.clk.running = true) (hduty : 0 < c.clk.duty.toNat) :
    (c.frameStep tb x).clk.getState = true ∧ (c.frameStep tb x).clk.phase = 0#16 ∧
    (c.frameStep tb x).clk.lastRisingEdgeTime = (c.frameStep tb x).clk.lastObservedTime ∧
    ((c.frameStep tb x).clk.period ≠ 0#32 → (c.frameStep tb x).clk.lastRisingEdgeTime = x.now) := by
  obtain ⟨v, hclk⟩ := c.frameStep_clk tb x
  rw [if_pos hrise] at hclk
  obtain ⟨hperiod, hd, hr⟩ := (c.clk.setPeriod v).update_fields x.now
  have hr : ((c.clk.setPeriod v).update x.now).running = true := hr.trans hrunning
  obtain ⟨hsperiod, -, -, -, hsseen⟩ := ((c.clk.setPeriod v).update x.now).sync_fields 0#17
  rw [hclk, hsseen, hsperiod, PhaseClock.sync_zero_anchor hr, hperiod]
  exact ⟨PhaseClock.getState_sync_zero hr (by rw [hd]; exact hduty), PhaseClock.sync_zero_phase hr, rfl,
    fun hv => PhaseClock.update_lastObservedTime (c := c.clk.setPeriod v) hrunning hv x.now⟩

/-- Settles O43: the level returned is that of the synchronised clock. -/
theorem clockTriggerRiseRestartsHigh : Obligations.ClockTriggerRiseRestartsHigh := by
  intro s x htrig hprev hrunning hduty
  obtain ⟨hhigh, hclock⟩ := ClockMode.frameStep_rise (tb := s.config.tables) (trigRise_eq_true.2 ⟨htrig, hprev⟩) hrunning
    hduty
  exact ⟨_, exec_modeInstr .clock x s, congrArg (fun b => Result.level (widen b)) hhigh, hclock⟩

/-! ### A follower's step -/

/-- What a follower is after its step in a state. -/
def State.followerStep (s : State) (i : Follower) (x : Forwarded) : DivMulMode :=
  (s.follower i).frameStep (followerPeriod (isMultiply i.mode)) (i.ratio s.config.tables) x

/-- A mode step of a follower replaces the follower by its step and returns its clock's level. -/
theorem exec_follower (i : Follower) (x : Forwarded) (s : State) :
    exec (modeInstr i.mode x) s = .next
      ((s.setFollower i (s.followerStep i x)).withResult (.level (widen (s.followerStep i x).clk.getState))) := by
  cases i <;> rfl

/-- Only an input rise moves the time of the last one. -/
theorem DivMulMode.frameStep_lastInRise (period : Time → Ratio → Time) (ratio : Nat → Nat → Ratio) {x : Forwarded}
    {d : DivMulMode} (h : x.trig = false) : (d.frameStep period ratio x).lastInRise = d.lastInRise := by
  cases hp : d.prevIn <;> simp [DivMulMode.frameStep, trigRise, trigFall, h, hp]

/-- A sync to a duty that is a phase leaves that phase, which is not below the duty. -/
theorem PhaseClock.sync_duty {c : PhaseClock} (h : c.running = true) (hduty : c.duty.toNat < 65536) :
    (c.sync c.duty).phase.toNat = c.duty.toNat ∧ (c.sync c.duty).getState = false := by
  obtain ⟨-, hd, -⟩ := c.sync_fields c.duty
  have hphase : (c.sync c.duty).phase.toNat = c.duty.toNat := by
    rw [sync_phase h, Nat.min_eq_left (Nat.le_of_lt_succ hduty)]
  refine ⟨hphase, ?_⟩
  rw [← Bool.not_eq_true, getState_iff, hphase, hd]
  exact fun hhigh => lt_irrefl _ hhigh.2

/-- The frame that sees the input fall, for either follower (rule R175 (e)). -/
theorem follower_low_at_fall (i : Follower) (s : State) (x : Forwarded) (htrig : x.trig = false)
    (hprev : (s.follower i).prevIn = true) (hrunning : (s.follower i).clk.running = true)
    (hduty : (s.follower i).clk.duty.toNat < 65536) :
    ∃ t, exec (modeInstr i.mode x) s = .next t ∧ t.result = .level 0#8 ∧
      (t.follower i).clk.phase.toNat = (s.follower i).clk.duty.toNat ∧
      (t.follower i).lastInRise = (s.follower i).lastInRise := by
  refine ⟨_, exec_follower i x s, ?_⟩
  rw [State.withResult_result, State.follower_withResult, State.follower_setFollower]
  obtain ⟨-, hd, hr⟩ := (s.follower i).clk.update_fields x.now
  have hclk : (s.followerStep i x).clk =
      ((s.follower i).clk.update x.now).sync ((s.follower i).clk.update x.now).duty :=
    ((s.follower i).frameStep_clk _ _ x).2.1 (trigFall_eq_true.2 ⟨htrig, hprev⟩)
  obtain ⟨hphase, hlow⟩ := PhaseClock.sync_duty (hr.trans hrunning) (by rw [hd]; exact hduty)
  rw [hclk, hlow, hphase, hd]
  exact ⟨rfl, rfl, DivMulMode.frameStep_lastInRise _ _ htrig⟩

/-- Settles O44: either follower. -/
theorem followerReadsLowAtInputFall : Obligations.FollowerReadsLowAtInputFall :=
  ⟨follower_low_at_fall .div, follower_low_at_fall .mul⟩

end Sys2Proof.Machine
end

section
/-! ### Runs (rules R168 (e), R169, R175 (c), R193, R195)

An invariant of a run speaks of the state and of the operands still to come. If the step of each operand keeps it, the run completes
and keeps it; the induction is made once. -/

namespace Sys2Proof.Machine

/-- A run of one operation over a list of operands keeps what each of its steps keeps, and its last state is one a step leaves. -/
theorem execAll_map_of_step {α : Type} {op : α → Instr} {Inv : List α → State → Prop} {After : State → Prop}
    (hstep : ∀ x xs s, Inv (x :: xs) s → ∃ t, exec (op x) s = .next t ∧ Inv xs t ∧ After t) (xs : List α) (s : State)
    (h : Inv xs s) : ∃ t, execAll (xs.map op) s = .next t ∧ Inv [] t ∧ (xs ≠ [] → After t) := by
  induction xs generalizing s with
  | nil => exact ⟨s, rfl, h, fun hne => absurd rfl hne⟩
  | cons x xs ih =>
    obtain ⟨t, ht, hinv, hafter⟩ := hstep x xs s h
    obtain ⟨u, hu, hlast, hout⟩ := ih t hinv
    refine ⟨u, (execAll_cons ht).trans hu, hlast, fun _ => ?_⟩
    cases xs with
    | nil =>
      obtain rfl : t = u := Host.Outcome.next.inj hu
      exact hafter
    | cons y ys => exact hout (List.cons_ne_nil y ys)

/-! ### A paused behaviour -/

/-- The behaviour `m` is as in `s₀` and none of the frames to come selects it. -/
def Paused (m : ModeId) (s₀ : State) (fs : List Frame) (s : State) : Prop :=
  sameBehaviour m s₀ s ∧ neverSelects m fs s = true

/-- A frame that does not select a behaviour leaves it (rule R193). -/
theorem sameBehaviour_frameStep {m : ModeId} {s : State} {f : Frame} (h : s.selected f ≠ m) :
    sameBehaviour m s (s.frameStep f) := by
  have hmode : sameBehaviour m s (s.modeQuantised f) := by cases m <;> rfl
  have hrun : sameBehaviour m s (s.selectedStepped f) :=
    sameBehaviour_trans hmode (runMode_other h.symm f.forwarded (s.modeQuantised f))
  rw [State.frameStep_eq]
  cases m <;> exact hrun

/-- Settles O51: each frame of the run selects another behaviour. -/
theorem pausedBehaviourIsPreservedOverRuns : Obligations.PausedBehaviourIsPreservedOverRuns := by
  intro m fs s hnever
  have hstep : ∀ f fs u, Paused m s (f :: fs) u → ∃ t, exec (.frame f) u = .next t ∧ Paused m s fs t ∧ True := by
    rintro f fs u ⟨hsame, hnever⟩
    rw [neverSelects, Bool.and_eq_true, bne_iff_ne] at hnever
    obtain ⟨hother, hrest⟩ := hnever
    exact ⟨_, exec_frame f u, ⟨sameBehaviour_trans hsame (sameBehaviour_frameStep hother), hrest⟩, trivial⟩
  obtain ⟨t, ht, ⟨hsame, -⟩, -⟩ := execAll_map_of_step hstep fs s ⟨sameBehaviour_refl m s, hnever⟩
  exact ⟨t, ht, hsame⟩

/-! ### An idle burst -/

/-- The burst's clock is Stopped, its gate count is `g`, and no frame to come shows a trigger rise. -/
def IdleBurst (g : GateCount) (xs : List Forwarded) (s : State) : Prop :=
  s.bstMode.clk.running = false ∧ s.bstMode.gates = g ∧ noTrigRise s.bstMode.prevTrig xs = true

/-- Without a trigger rise the step of a burst whose clock is Stopped does no more than read the knobs, set the period and copy the
trigger: the update does not execute, so no gate is counted. -/
theorem BurstMode.frameStep_idle {tb : Tables} {x : Forwarded} {b : BurstMode} (hstopped : b.clk.running = false)
    (hrise : trigRise x.trig b.prevTrig = false) :
    (b.frameStep tb x).clk.running = false ∧ (b.frameStep tb x).gates = b.gates ∧ (b.frameStep tb x).prevTrig = x.trig := by
  have hadv : (b.clk.setPeriod (bstRateValue tb (b.kRate.update x.rateRaw))).advances = false :=
    PhaseClock.advances_false (.inl hstopped)
  rw [frameStep_eq, hadv, hrise, Bool.false_and, if_neg Bool.false_ne_true]
  refine ⟨?_, rfl, rfl⟩
  exact ((PhaseClock.update_fields _ _).2.2).trans hstopped

/-- Settles O47: the idle burst stays idle, and a Stopped clock reads low. -/
theorem idleBurstStaysLowUntilTrigger : Obligations.IdleBurstStaysLowUntilTrigger := by
  intro xs s hstopped hnoRise
  have hstep : ∀ x xs u, IdleBurst s.bstMode.gates (x :: xs) u →
      ∃ t, exec (.modeBurst x) u = .next t ∧ IdleBurst s.bstMode.gates xs t ∧ t.result = .level 0#8 := by
    rintro x xs u ⟨hstopped, hgates, hnoRise⟩
    rw [noTrigRise, Bool.and_eq_true, Bool.not_eq_true'] at hnoRise
    obtain ⟨hrise, hrest⟩ := hnoRise
    obtain ⟨hclk, hgate, hprev⟩ := BurstMode.frameStep_idle (tb := u.config.tables) hstopped hrise
    refine ⟨_, exec_modeInstr .burst x u, ⟨hclk, hgate.trans hgates, ?trigger⟩, ?level⟩
    case trigger => exact (congrArg (noTrigRise · xs) hprev).trans hrest
    case level => exact congrArg (fun b => Result.level (widen b)) (PhaseClock.getState_stopped hclk)
  obtain ⟨t, ht, ⟨hclk, hgates, -⟩, hout⟩ := execAll_map_of_step hstep xs s ⟨hstopped, rfl, hnoRise⟩
  exact ⟨t, ht, hclk, hgates, hout⟩

/-! ### A follower before its first input rise -/

/-- The follower's clock is `c`, its input was low and stays low. -/
def AwaitsRise (i : Follower) (c : PhaseClock) (xs : List Forwarded) (s : State) : Prop :=
  (s.follower i).clk = c ∧ (s.follower i).prevIn = false ∧ ∀ x ∈ xs, x.trig = false

/-- Without an edge of the input the step of a follower without a period leaves its clock. -/
theorem DivMulMode.frameStep_awaits {period : Time → Ratio → Time} {ratio : Nat → Nat → Ratio} {x : Forwarded}
    {d : DivMulMode} (hperiod : d.clk.period = 0#32) (htrig : x.trig = d.prevIn) :
    (d.frameStep period ratio x).clk = d.clk :=
  ((d.frameStep_clk period ratio x).2.2 htrig).trans (PhaseClock.update_noop (PhaseClock.advances_false (.inr hperiod)) _)

theorem follower_high_until_rise (i : Follower) (xs : List Forwarded) (s : State)
    (hrunning : (s.follower i).clk.running = true) (hperiod : (s.follower i).clk.period = 0#32)
    (hphase : (s.follower i).clk.phase = 0#16) (hduty : 0 < (s.follower i).clk.duty.toNat)
    (hprev : (s.follower i).prevIn = false) (hlow : ∀ x ∈ xs, x.trig = false) :
    ∃ t, execAll (xs.map (modeInstr i.mode)) s = .next t ∧ (t.follower i).clk = (s.follower i).clk ∧
      (xs ≠ [] → t.result = .level 255#8) := by
  have hhigh : (s.follower i).clk.getState = true := by
    rw [PhaseClock.getState_iff, hphase]
    exact ⟨hrunning, hduty⟩
  have hstep : ∀ x xs u, AwaitsRise i (s.follower i).clk (x :: xs) u →
      ∃ t, exec (modeInstr i.mode x) u = .next t ∧ AwaitsRise i (s.follower i).clk xs t ∧ t.result = .level 255#8 := by
    rintro x xs u ⟨hclk, hprev, hlow⟩
    obtain ⟨hx, hxs⟩ := List.forall_mem_cons.1 hlow
    have hkept : (u.followerStep i x).clk = (s.follower i).clk :=
      (DivMulMode.frameStep_awaits (hclk ▸ hperiod) (hx.trans hprev.symm)).trans hclk
    obtain ⟨-, -, hcopy⟩ := (u.follower i).frameStep_knobs (followerPeriod (isMultiply i.mode)) (i.ratio u.config.tables) x
    refine ⟨_, exec_follower i x u, ?_⟩
    rw [AwaitsRise, State.withResult_result, State.follower_withResult, State.follower_setFollower, hkept, hhigh]
    exact ⟨⟨rfl, hcopy.trans hx, hxs⟩, rfl⟩
  obtain ⟨t, ht, ⟨hclk, -⟩, hout⟩ := execAll_map_of_step hstep xs s ⟨rfl, hprev, hlow⟩
  exact ⟨t, ht, hclk, hout⟩

/-- Settles O45: either follower. -/
theorem followerReadsHighUntilFirstInputRise : Obligations.FollowerReadsHighUntilFirstInputRise :=
  ⟨follower_high_until_rise .div, follower_high_until_rise .mul⟩

end Sys2Proof.Machine
end

section
/-! ### A change of the time origin (rule R235)

A timestamp is stored, or subtracted from another one; both commute with moving every timestamp by the same amount. What remains of a
clock, its phase, period, duty and states, does not change, so neither do the edges, the levels and the knobs. -/

namespace Sys2Proof.Machine

/-! ### One clock -/

section
variable (d t : Time) (c : PhaseClock)

theorem PhaseClock.duty_shiftTime : (c.shiftTime d).duty = c.duty := rfl

theorem PhaseClock.getState_shiftTime : (c.shiftTime d).getState = c.getState := rfl

theorem PhaseClock.isRising_shiftTime : (c.shiftTime d).isRising = c.isRising := rfl

theorem PhaseClock.isFalling_shiftTime : (c.shiftTime d).isFalling = c.isFalling := rfl

theorem PhaseClock.advances_shiftTime : (c.shiftTime d).advances = c.advances := rfl

theorem PhaseClock.setPeriod_shiftTime (v : Time) : (c.shiftTime d).setPeriod v = (c.setPeriod v).shiftTime d := rfl

theorem PhaseClock.start_shiftTime : (c.shiftTime d).start (t + d) = (c.start t).shiftTime d := rfl

theorem PhaseClock.stop_shiftTime : (c.shiftTime d).stop = c.stop.shiftTime d := rfl

/-- The anchor is placed relative to the last observation. -/
theorem PhaseClock.sync_shiftTime (target : Duty) : (c.shiftTime d).sync target = (c.sync target).shiftTime d := by
  cases h : c.running with
  | true =>
    rw [sync_running h, sync_running (p := c.shiftTime d) h]
    simp only [shiftTime, subT_add_left]
  | false => rw [sync_stopped h, sync_stopped (p := c.shiftTime d) h]

/-- The elapsed time since the anchor does not depend on the origin. -/
theorem PhaseClock.observe_shiftTime : (c.shiftTime d).observe (t + d) = (c.observe t).shiftTime d := by
  simp only [observe, getState_shiftTime]
  simp only [shiftTime, subT_add_add]

theorem PhaseClock.reanchor_shiftTime : (c.shiftTime d).reanchor (t + d) = (c.reanchor t).shiftTime d := by
  cases h : c.isRising with
  | true => rw [reanchor, reanchor, isRising_shiftTime, if_pos h, if_pos h]; rfl
  | false => rw [reanchor, reanchor, isRising_shiftTime, h]; rfl

theorem PhaseClock.update_shiftTime : (c.shiftTime d).update (t + d) = (c.update t).shiftTime d := by
  cases h : c.advances with
  | true =>
    rw [update_advances h, update_advances (p := c.shiftTime d) h, observe_shiftTime, reanchor_shiftTime]
  | false => rw [update_noop h, update_noop (p := c.shiftTime d) h]

end

/-! ### The behaviours -/

/-- A ClockMode whose timestamps are moved by `d`. -/
def ClockMode.shiftTime (d : Time) (c : ClockMode) : ClockMode := { c with clk := c.clk.shiftTime d }

/-- A BurstMode whose timestamps are moved by `d`. -/
def BurstMode.shiftTime (d : Time) (b : BurstMode) : BurstMode := { b with clk := b.clk.shiftTime d }

/-- A follower whose timestamps are moved by `d`. -/
def DivMulMode.shiftTime (d : Time) (m : DivMulMode) : DivMulMode :=
  { m with clk := m.clk.shiftTime d, lastInRise := m.lastInRise + d }

/-- The operands of a mode step at a time moved by `d`. -/
def Forwarded.shiftTime (d : Time) (x : Forwarded) : Forwarded := { x with now := x.now + d }

/-- The timestamps of a state are those of its behaviours. -/
theorem State.shiftTime_eq (d : Time) (s : State) : s.shiftTime d =
    { s with
      clkMode := s.clkMode.shiftTime d
      bstMode := s.bstMode.shiftTime d
      divMode := s.divMode.shiftTime d
      mulMode := s.mulMode.shiftTime d } := rfl

theorem ClockMode.frameStep_shiftTime (tb : Tables) (d : Time) (x : Forwarded) (c : ClockMode) :
    (c.shiftTime d).frameStep tb (Forwarded.shiftTime d x) = (c.frameStep tb x).shiftTime d := by
  cases h : trigRise x.trig c.prevTrig <;>
    simp [frameStep, shiftTime, Forwarded.shiftTime, PhaseClock.setPeriod_shiftTime, PhaseClock.update_shiftTime,
      PhaseClock.sync_shiftTime, h]

theorem BurstMode.beforeCount_shiftTime (tb : Tables) (d : Time) (x : Forwarded) (b : BurstMode) (rise : Bool) :
    (b.shiftTime d).beforeCount tb (Forwarded.shiftTime d x) rise = (b.beforeCount tb x rise).shiftTime d := by
  cases rise <;>
    simp [beforeCount, shiftTime, Forwarded.shiftTime, PhaseClock.setPeriod_shiftTime, PhaseClock.update_shiftTime,
      PhaseClock.start_shiftTime]

/-- The last gate of a burst stops the clock (rule R168, lines 11 to 13). -/
theorem BurstMode.countGate_of_le {tb : Tables} {b : BurstMode}
    (h : (repeatCount tb b.kRepeat.currentIndex.toNat).toNat ≤ b.gates.toNat + 1) :
    b.countGate tb = { b with clk := b.clk.stop, gates := 0#8 } :=
  if_pos h

/-- A gate before the last is counted (rule R168, line 14). -/
theorem BurstMode.countGate_of_lt {tb : Tables} {b : BurstMode}
    (h : b.gates.toNat + 1 < (repeatCount tb b.kRepeat.currentIndex.toNat).toNat) :
    b.countGate tb = { b with gates := BitVec.ofNat 8 (b.gates.toNat + 1) } :=
  if_neg (Nat.not_le.2 h)

theorem BurstMode.countGate_shiftTime (tb : Tables) (d : Time) (b : BurstMode) :
    (b.shiftTime d).countGate tb = (b.countGate tb).shiftTime d := by
  rcases Nat.lt_or_ge (b.gates.toNat + 1) (repeatCount tb b.kRepeat.currentIndex.toNat).toNat with hmore | hlast
  · rw [countGate_of_lt hmore, countGate_of_lt (b := b.shiftTime d) hmore]; rfl
  · rw [countGate_of_le hlast, countGate_of_le (b := b.shiftTime d) hlast]; rfl

theorem BurstMode.frameStep_shiftTime (tb : Tables) (d : Time) (x : Forwarded) (b : BurstMode) :
    (b.shiftTime d).frameStep tb (Forwarded.shiftTime d x) = (b.frameStep tb x).shiftTime d := by
  rw [frameStep_eq, frameStep_eq, beforeCount_shiftTime, countGate_shiftTime]
  exact (apply_ite (shiftTime d) _ _ _).symm

theorem DivMulMode.frameStep_shiftTime (period : Time → Ratio → Time) (ratio : Nat → Nat → Ratio) (d : Time)
    (x : Forwarded) (m : DivMulMode) :
    (m.shiftTime d).frameStep period ratio (Forwarded.shiftTime d x) = (m.frameStep period ratio x).shiftTime d := by
  cases hrise : trigRise x.trig m.prevIn <;> cases hfall : trigFall x.trig m.prevIn <;>
    simp [frameStep, inputRise, shiftTime, Forwarded.shiftTime, subT_add_add, PhaseClock.duty_shiftTime,
      PhaseClock.setPeriod_shiftTime, PhaseClock.update_shiftTime, PhaseClock.sync_shiftTime, hrise, hfall]

/-! ### Mode steps and FRAME -/

theorem State.runMode_shiftTime (d : Time) (s : State) (m : ModeId) (x : Forwarded) :
    (s.shiftTime d).runMode m (Forwarded.shiftTime d x) = (s.runMode m x).shiftTime d := by
  rw [State.shiftTime_eq, State.shiftTime_eq]
  cases m with
  | clock => rw [runMode, ClockMode.frameStep_shiftTime]; rfl
  | burst => rw [runMode, BurstMode.frameStep_shiftTime]; rfl
  | divide => rw [runMode, DivMulMode.frameStep_shiftTime]; rfl
  | multiply => rw [runMode, DivMulMode.frameStep_shiftTime]; rfl

theorem State.modeOut_shiftTime (d : Time) (s : State) (m : ModeId) : (s.shiftTime d).modeOut m = s.modeOut m := by
  cases m <;> rfl

theorem State.selectedStepped_shiftTime (d : Time) (s : State) (f : Frame) :
    (s.shiftTime d).selectedStepped { f with now := f.now + d } = (s.selectedStepped f).shiftTime d :=
  State.runMode_shiftTime d (s.modeQuantised f) (s.selected f) f.forwarded

theorem State.frameStep_shiftTime (d : Time) (s : State) (f : Frame) :
    (s.shiftTime d).frameStep { f with now := f.now + d } = (s.frameStep f).shiftTime d := by
  rw [State.frameStep_eq, State.frameStep_eq, State.selectedStepped_shiftTime, State.modeOut_shiftTime]
  rfl

/-- Settles O52: the step of the selected behaviour commutes with the shift, and the level it returns does not depend on it. -/
theorem frameCommutesWithTimeShift : Obligations.FrameCommutesWithTimeShift := by
  intro s f d
  refine ⟨_, exec_frame f s, ?_⟩
  rw [exec_frame, State.frameStep_shiftTime]

end Sys2Proof.Machine
end
